-- ==== Sys2Proof/Word.lean ====
section
/-! DEFINITION. The words of CasioEmuX CORE: what spec/ treats as bits. -/

namespace Sys2Proof

/-- One byte on the register bus (R60). -/
abbrev Byte := BitVec 8

/-- A register-bus address (R60). -/
abbrev Addr := BitVec 16

/-- The command word presented on the command port (R80). -/
abbrev CommandWord := BitVec 32

/-- A line index, 0..127 (R21, R61 (b)). -/
abbrev Line := BitVec 7

/-- The widest of the mask and pending shadow registers: `W = N + 1` is at most 22 (R25, R26). A variant
with a smaller `W` uses the low `W` bits; log 8. -/
abbrev Shadow := BitVec 22

end Sys2Proof
end

