-- ==== Sys2Proof/Syntax.lean ====
section
/-! DEFINITION. The twenty commands of the block's contract (R84): one constructor per row of
spec/opcode_table.json. Every operand is an immediate of its field's exact width (R82), so no operand can
be out of its field. -/

namespace Sys2Proof

/-- One command (R3 calls it an instruction): the rows of R84 in the table's order. -/
inductive Instr where
  | cycle
  | rst
  | brk
  | accept
  | raiseRst
  | raiseBrk
  | raiseEmu
  | raiseNmi
  | raiseMi (index : Line)
  | raiseSw (index : Line)
  | clrNmi
  | clrMi (index : Line)
  | reqNmi
  | lineEn (index : Line) (flag : Bool)
  | lineTry (index : Line)
  | lineClr (index : Line)
  | wr (addr : Addr) (data : Byte)
  | rd (addr : Addr)
  | runmode (mode : BitVec 2)
  | miblk (flag : Bool)
deriving DecidableEq, Repr

/-- The mnemonic of a command, as R84 spells it. -/
def Instr.mnemonic : Instr → String
  | .cycle => "CYCLE"
  | .rst => "RST"
  | .brk => "BRK"
  | .accept => "ACCEPT"
  | .raiseRst => "RAISE.RST"
  | .raiseBrk => "RAISE.BRK"
  | .raiseEmu => "RAISE.EMU"
  | .raiseNmi => "RAISE.NMI"
  | .raiseMi _ => "RAISE.MI"
  | .raiseSw _ => "RAISE.SW"
  | .clrNmi => "CLR.NMI"
  | .clrMi _ => "CLR.MI"
  | .reqNmi => "REQ.NMI"
  | .lineEn _ _ => "LINE.EN"
  | .lineTry _ => "LINE.TRY"
  | .lineClr _ => "LINE.CLR"
  | .wr _ _ => "WR"
  | .rd _ => "RD"
  | .runmode _ => "RUNMODE"
  | .miblk _ => "MIBLK"

end Sys2Proof
end

