-- ==== Sys2Proof/Decode.lean ====
section
/-! DEFINITION. The decoder, total on every command word and rejecting by name (R80 to R86); the encoder,
written from the same tables; and the opcode map of R84 as rows of match and mask. -/

namespace Sys2Proof

/-- Why a word is illegal (R86): its opcode is not one of the twenty, or a field its format requires to be
zero is not (R85). -/
inductive DecodeError where
  | unassignedOpcode (op : BitVec 8)
  | reservedField (op : BitVec 8)
deriving DecidableEq, Repr

/-- `OP`, bits 31:24 of the command word (R81). -/
def opField (w : CommandWord) : BitVec 8 := w.extractLsb' 24 8

/-- `A`, bits 23:8 of the command word (R81). -/
def aField (w : CommandWord) : BitVec 16 := w.extractLsb' 8 16

/-- `D`, bits 7:0 of the command word (R81). -/
def dField (w : CommandWord) : BitVec 8 := w.extractLsb' 0 8

/-- The command word with the three fields of R81. -/
def commandWord (op : BitVec 8) (a : BitVec 16) (d : BitVec 8) : CommandWord :=
  (op.setWidth 32 <<< 24) ||| (a.setWidth 32 <<< 8) ||| d.setWidth 32

/-- `index = A[6:0]` (R82). -/
def indexOperand (a : BitVec 16) : Line := a.extractLsb' 0 7

/-- `A[15:7] = 0`, as the formats L and LB require (R83). -/
def indexOnly (a : BitVec 16) : Bool := a.extractLsb' 7 9 == 0#9

/-- `flag = D[0]` (R82). -/
def flagOperand (d : BitVec 8) : Bool := d.getLsbD 0

/-- `D[7:1] = 0`, as the formats LB and F require (R83). -/
def flagOnly (d : BitVec 8) : Bool := d.extractLsb' 1 7 == 0#7

/-- `mode = D[1:0]` (R82). -/
def modeOperand (d : BitVec 8) : BitVec 2 := d.extractLsb' 0 2

/-- `D[7:2] = 0`, as the format M requires (R83). -/
def modeOnly (d : BitVec 8) : Bool := d.extractLsb' 2 6 == 0#6

/-- A word whose fields its format allows is the command; otherwise a must-be-zero field is not zero (R85). -/
def inFormat (op : BitVec 8) (ok : Bool) (i : Instr) : Except DecodeError Instr :=
  if ok then .ok i else .error (.reservedField op)

/-- Decoding from the three fields: the opcode selects the row, the row's format says which fields must be
zero (R83, R84). -/
def decodeFields (op : BitVec 8) (a : BitVec 16) (d : BitVec 8) : Except DecodeError Instr :=
  match op.toNat with
  | 0x01 => inFormat op (a == 0 && d == 0) .cycle
  | 0x02 => inFormat op (a == 0 && d == 0) .rst
  | 0x03 => inFormat op (a == 0 && d == 0) .brk
  | 0x04 => inFormat op (a == 0 && d == 0) .accept
  | 0x10 => inFormat op (a == 0 && d == 0) .raiseRst
  | 0x11 => inFormat op (a == 0 && d == 0) .raiseBrk
  | 0x12 => inFormat op (a == 0 && d == 0) .raiseEmu
  | 0x13 => inFormat op (a == 0 && d == 0) .raiseNmi
  | 0x14 => inFormat op (indexOnly a && d == 0) (.raiseMi (indexOperand a))
  | 0x15 => inFormat op (indexOnly a && d == 0) (.raiseSw (indexOperand a))
  | 0x18 => inFormat op (a == 0 && d == 0) .clrNmi
  | 0x19 => inFormat op (indexOnly a && d == 0) (.clrMi (indexOperand a))
  | 0x1A => inFormat op (a == 0 && d == 0) .reqNmi
  | 0x20 => inFormat op (indexOnly a && flagOnly d) (.lineEn (indexOperand a) (flagOperand d))
  | 0x21 => inFormat op (indexOnly a && d == 0) (.lineTry (indexOperand a))
  | 0x22 => inFormat op (indexOnly a && d == 0) (.lineClr (indexOperand a))
  | 0x30 => inFormat op true (.wr a d)
  | 0x31 => inFormat op (d == 0) (.rd a)
  | 0x40 => inFormat op (a == 0 && modeOnly d) (.runmode (modeOperand d))
  | 0x41 => inFormat op (a == 0 && flagOnly d) (.miblk (flagOperand d))
  | _ => .error (.unassignedOpcode op)

/-- The decoder of the command port: a row of R84 or `illegal`, for every word (R86). -/
def decode (w : CommandWord) : Except DecodeError Instr :=
  decodeFields (opField w) (aField w) (dField w)

/-- The field `A` of a line format: the index in its low seven bits, zeros above (R83). -/
def indexField (index : Line) : BitVec 16 := index.setWidth 16

/-- The field `D` of a flag format: the flag in bit 0, zeros above (R83). -/
def flagField (flag : Bool) : BitVec 8 := (BitVec.ofBool flag).setWidth 8

/-- The field `D` of the mode format: the mode in its low two bits, zeros above (R83). -/
def modeField (mode : BitVec 2) : BitVec 8 := mode.setWidth 8

/-- The word of a command, from the encoding tables of R81, R83 and R84. -/
def encode : Instr → CommandWord
  | .cycle => commandWord 0x01#8 0 0
  | .rst => commandWord 0x02#8 0 0
  | .brk => commandWord 0x03#8 0 0
  | .accept => commandWord 0x04#8 0 0
  | .raiseRst => commandWord 0x10#8 0 0
  | .raiseBrk => commandWord 0x11#8 0 0
  | .raiseEmu => commandWord 0x12#8 0 0
  | .raiseNmi => commandWord 0x13#8 0 0
  | .raiseMi index => commandWord 0x14#8 (indexField index) 0
  | .raiseSw index => commandWord 0x15#8 (indexField index) 0
  | .clrNmi => commandWord 0x18#8 0 0
  | .clrMi index => commandWord 0x19#8 (indexField index) 0
  | .reqNmi => commandWord 0x1A#8 0 0
  | .lineEn index flag => commandWord 0x20#8 (indexField index) (flagField flag)
  | .lineTry index => commandWord 0x21#8 (indexField index) 0
  | .lineClr index => commandWord 0x22#8 (indexField index) 0
  | .wr addr data => commandWord 0x30#8 addr data
  | .rd addr => commandWord 0x31#8 addr 0
  | .runmode mode => commandWord 0x40#8 0 (modeField mode)
  | .miblk flag => commandWord 0x41#8 0 (flagField flag)

/-- One row of the opcode map (R84). -/
structure OpcodeRow where
  mnemonic : String
  matchBits : CommandWord
  maskBits : CommandWord
deriving DecidableEq, Repr

/-- A word selects a row iff `w & mask = match` (R84). -/
def OpcodeRow.selects (r : OpcodeRow) (w : CommandWord) : Bool := w &&& r.maskBits == r.matchBits

/-- The opcode map of R84, row by row. -/
def opcodeMap : List OpcodeRow :=
  [ ⟨"CYCLE",     0x01000000#32, 0xFFFFFFFF#32⟩,
    ⟨"RST",       0x02000000#32, 0xFFFFFFFF#32⟩,
    ⟨"BRK",       0x03000000#32, 0xFFFFFFFF#32⟩,
    ⟨"ACCEPT",    0x04000000#32, 0xFFFFFFFF#32⟩,
    ⟨"RAISE.RST", 0x10000000#32, 0xFFFFFFFF#32⟩,
    ⟨"RAISE.BRK", 0x11000000#32, 0xFFFFFFFF#32⟩,
    ⟨"RAISE.EMU", 0x12000000#32, 0xFFFFFFFF#32⟩,
    ⟨"RAISE.NMI", 0x13000000#32, 0xFFFFFFFF#32⟩,
    ⟨"RAISE.MI",  0x14000000#32, 0xFFFF80FF#32⟩,
    ⟨"RAISE.SW",  0x15000000#32, 0xFFFF80FF#32⟩,
    ⟨"CLR.NMI",   0x18000000#32, 0xFFFFFFFF#32⟩,
    ⟨"CLR.MI",    0x19000000#32, 0xFFFF80FF#32⟩,
    ⟨"REQ.NMI",   0x1A000000#32, 0xFFFFFFFF#32⟩,
    ⟨"LINE.EN",   0x20000000#32, 0xFFFF80FE#32⟩,
    ⟨"LINE.TRY",  0x21000000#32, 0xFFFF80FF#32⟩,
    ⟨"LINE.CLR",  0x22000000#32, 0xFFFF80FF#32⟩,
    ⟨"WR",        0x30000000#32, 0xFF000000#32⟩,
    ⟨"RD",        0x31000000#32, 0xFF0000FF#32⟩,
    ⟨"RUNMODE",   0x40000000#32, 0xFFFFFFFC#32⟩,
    ⟨"MIBLK",     0x41000000#32, 0xFFFFFFFE#32⟩ ]

/-- What the decoder reads from a table word. A command is one 32-bit word (R80), so a number of more than
32 bits is no command word; `nbits` says nothing more (log 23). -/
def decodeTableWord (_nbits w : Nat) : Option Instr :=
  if w < 2 ^ 32 then (decode (BitVec.ofNat 32 w)).toOption else none

end Sys2Proof
end

