-- ==== Sys2Proof/Config.lean ====
section
/-! DEFINITION. The hardware-variant descriptor of R6: what is fixed at construction. Its derived values and
its defaults are in Sys2Proof/Machine/Variant.lean. Nothing in the spec is an undefined result, so no opaque
free value stands here. -/

namespace Sys2Proof.Config

/-- `VARIANT` (R6): the three hardware variants, named after their effective maskable-line count. -/
inductive Variant where
  | v12
  | v17
  | v21
deriving DecidableEq, Repr

/-- `RUNMODE` (R29): stopped (code 0), halted (code 1), running (code 2); the code 3 is never stored. -/
inductive RunMode where
  | stopped
  | halted
  | running
deriving DecidableEq, Repr

/-- The domain tag of a peripheral (R6, R93): `NONE`, `LS`, `HS`, `SYS`, `STOPPED`. It is static (D19). -/
inductive Domain where
  | none
  | ls
  | hs
  | sys
  | stopped
deriving DecidableEq, Repr

/-- The seven registers of the bus (R92). -/
inductive Reg where
  | osccfg
  | lsrst
  | hsrst
  | adj
  | ie
  | irq
  | blkcon
deriving DecidableEq, Repr

/-- What the block knows of one peripheral (R6): its domain tag and its optional block-control bit. The bit
is a plain number because a peripheral may declare one outside 0..7, which construction rejects (R242). -/
structure Peripheral where
  domain : Domain
  blkbit : Option Nat := .none
deriving DecidableEq, Repr

/-- The hardware-variant descriptor (R6). `ieMask`, `irqMask` and `blkValid` are `IE_VALID`, `IRQ_VALID`
and `BLK_VALID`; `aOsccfg` .. `aBlkcon` are the seven register addresses; `periphs` is the peripheral table
in ascending index, which is the order of registration (D18). -/
structure Descriptor where
  variant    : Variant
  ieMask     : Shadow
  irqMask    : Shadow
  blkValid   : Byte
  aOsccfg    : Addr
  aLsrst     : Addr
  aHsrst     : Addr
  aAdj       : Addr
  aIe        : Addr
  aIrq       : Addr
  aBlkcon    : Addr
  cps        : Nat
  lsSubsteps : Nat
  osccfgPor  : Byte
  runmodePor : RunMode
  periphs    : List Peripheral
deriving DecidableEq, Repr

end Sys2Proof.Config
end

