-- ==== Sys2Proof/Machine/Variant.lean ====
section
/-! DEFINITION. What R6 derives from the hardware-variant descriptor, its defaults, and which descriptors
construction admits (R300). -/

namespace Sys2Proof.Machine

open Sys2Proof.Config

/-- `N`, the effective maskable-line count: 12, 17 or 21 (R6). -/
def lineCount (d : Descriptor) : Nat :=
  match d.variant with
  | .v12 => 12
  | .v17 => 17
  | .v21 => 21

/-- `W = N + 1`, the width of IE and IRQ (R6). -/
def shadowWidth (d : Descriptor) : Nat := lineCount d + 1

/-- `NB = ceil(W / 8)`, the bytes of IE and of IRQ (R6). -/
def shadowBytes (d : Descriptor) : Nat := (shadowWidth d + 7) / 8

/-- The bits of IE and IRQ that exist: `2^W - 1` (R25, R26, R62). -/
def shadowMask (d : Descriptor) : Shadow := BitVec.ofNat 22 (2 ^ shadowWidth d - 1)

/-- `IE_VALID`, a mask of `W` bits (R6, R25). -/
def ieValid (d : Descriptor) : Shadow := d.ieMask &&& shadowMask d

/-- `IRQ_VALID`, a mask of `W` bits (R6, R26). -/
def irqValid (d : Descriptor) : Shadow := d.irqMask &&& shadowMask d

/-- `BASE_FREQ`, the low-speed nominal frequency (R6). -/
def baseFreq : Nat := 16384

/-- `ADJ_K`, the constant of the threshold formula (R6). -/
def adjK : Int := 2097152

/-- `HS_SUBSTEPS`, the steps of the high-speed sub-counter (R6). -/
def hsSubsteps : Nat := 128

/-- `OSCCFG_VALID`, the implemented bits of OSCCFG (R30). -/
def osccfgValid : Byte := 0x0F#8

/-- `LS_NOM = floor(CPS / 16384)`, the nominal low-speed interval in cycles (R6, R204). -/
def lsNom (d : Descriptor) : Nat := d.cps / baseFreq

/-- `P`, the number of peripherals (R6). -/
def periphCount (d : Descriptor) : Nat := d.periphs.length

/-- The register map (R60, R92): each register, its base address and its size in bytes. -/
def registerMap (d : Descriptor) : List (Reg × Addr × Nat) :=
  [ (.osccfg, d.aOsccfg, 1),
    (.lsrst,  d.aLsrst,  1),
    (.hsrst,  d.aHsrst,  1),
    (.adj,    d.aAdj,    2),
    (.ie,     d.aIe,     shadowBytes d),
    (.irq,    d.aIrq,    shadowBytes d),
    (.blkcon, d.aBlkcon, 1) ]

/-- Two address ranges share no address (R68). -/
def rangesDisjoint (a b : Reg × Addr × Nat) : Bool :=
  decide (a.2.1.toNat + a.2.2 ≤ b.2.1.toNat) || decide (b.2.1.toNat + b.2.2 ≤ a.2.1.toNat)

/-- No two ranges of the list share an address. -/
def pairwiseDisjoint : List (Reg × Addr × Nat) → Bool
  | [] => true
  | a :: rest => rest.all (rangesDisjoint a) && pairwiseDisjoint rest

/-- The descriptors construction admits (R300, U23): `CPS >= 32768` and disjoint register ranges. The other
three conditions are what the state's widths need (DEDUCED, log 11): a register lies inside the 16-bit
address space, `LS_SUBSTEPS` is in 1..128 so that `LSSUB` has 7 bits, and `LS_NOM + 1` fits `LSLEN`. -/
def legalDescriptor (d : Descriptor) : Bool :=
  decide (32768 ≤ d.cps)
    && pairwiseDisjoint (registerMap d)
    && (registerMap d).all (fun r => decide (r.2.1.toNat + r.2.2 ≤ 65536))
    && decide (1 ≤ d.lsSubsteps) && decide (d.lsSubsteps ≤ 128)
    && decide (lsNom d + 1 < 2 ^ 32)

/-- The block bit a peripheral declares is absent, or in 0..7 and in `BLK_VALID` (R242). -/
def blockBitOk (d : Descriptor) (p : Peripheral) : Bool :=
  match p.blkbit with
  | none => true
  | some b => decide (b ≤ 7) && d.blkValid.getLsbD b

/-- Every declared block bit is good; otherwise construction raises `Fatal(2)` (R242, R300). -/
def blockBitsOk (d : Descriptor) : Bool := d.periphs.all (blockBitOk d)

/-- The descriptor with every default of R6 and R92, for a variant, a `CPS` and a peripheral table. The
mask bits above `W` are dropped by `ieValid` and `irqValid`, so the default "all `W` bits valid" (D3) is
all ones for the three variants. -/
def standardDescriptor (v : Variant) (cps : Nat) (periphs : List Peripheral) : Descriptor where
  variant    := v
  ieMask     := 0x3FFFFF#22
  irqMask    := 0x3FFFFF#22
  blkValid   := 0xFF#8
  aOsccfg    := 0xF002#16
  aLsrst     := 0xF00A#16
  aHsrst     := 0xF00B#16
  aAdj       := 0xF00C#16
  aIe        := 0xF010#16
  aIrq       := 0xF014#16
  aBlkcon    := 0xF028#16
  cps        := cps
  lsSubsteps := 128
  osccfgPor  := 0x00#8
  runmodePor := .running
  periphs    := periphs

/-- The descriptor of `State.reset`: V12, `CPS = 65536`, no peripherals. DESIGN CHOICE (log 2): the spec
leaves `VARIANT`, `CPS` and `P` open; these are the values its own examples use. -/
def defaultDescriptor : Descriptor := standardDescriptor .v12 65536 []

end Sys2Proof.Machine
end

