-- ==== Sys2Proof/Machine/State.lean ====
section
/-! DEFINITION. The machine's state as plain data: every state element of 10_state.md, the configuration,
and the environment's inputs and outputs; its value after reset; and the reasons a step can stop. -/

namespace Sys2Proof.Machine

open Sys2Proof.Config

/-- The fatal errors of R261, in the order of their codes 1..5; `fatalCode` and `fatalValue` of
Sys2Proof/Machine/Operands.lean give the numbers, 0 being `none` in State. -/
inductive FatalCode where
  | badMaskableIndex
  | badBlockBit
  | badSoftwareIndex
  | illegalCommand
  | badLineHandle
deriving DecidableEq, Repr

/-- `LSCORR` (R35): -1 shortens the next low-speed interval, +1 lengthens it. -/
inductive Correction where
  | shorten
  | zero
  | lengthen
deriving DecidableEq, Repr

/-- The input ports from the instruction core (R46): `core_elevel` and `core_mie`. -/
structure CorePorts where
  elevel : BitVec 2
  mie    : Bool
deriving DecidableEq, Repr

/-- The diagnostic of R93, `SWI_NESTED`; `diagCode` of Sys2Proof/Machine/Operands.lean gives its number. -/
inductive DiagCode where
  | swiNested
deriving DecidableEq, Repr

/-- The output events of R47, R48 and R72 (tuples, R94), and `readData`, the byte an `RD` returned (R73;
the model's own way to show it, log 6). `resetPeriph` is the hook `Reset(p)`. -/
inductive Event where
  | raiseException (level : BitVec 2) (index : Line)
  | step
  | diag (code : DiagCode) (info : Line)
  | busMiss (addr : Addr)
  | initialise (p : Nat)
  | uninitialise (p : Nat)
  | resetPeriph (p : Nat)
  | tick (p : Nat)
  | tickAfterInterrupts (p : Nat)
  | resetLsclk (p : Nat)
  | readData (addr : Addr) (data : Byte)
deriving DecidableEq, Repr

/-- The read-only outputs to peripherals (R49): the domain output and edge bytes, the tick flags, and the
run mode. -/
structure PeripheralPorts where
  hsout   : Byte
  hsedge  : Byte
  lsout   : Byte
  lsedge  : Byte
  tickhs  : Bool
  ticksys : Bool
  tickls  : Bool
  runmode : RunMode
deriving DecidableEq, Repr

/-- A response (R9): the finite list of command words the environment issues inside a hook or `Step`. -/
abbrev Response := List CommandWord

/-- The whole machine. The first group is the block's own state (10_state.md R21 to R41), `desc` the
configuration (R6, R42; log 1), the last group the environment's inputs and the block's outputs. -/
structure State where
  /-- `ACT[0..127]`, bit `i` is slot `i` (R21). -/
  act       : BitVec 128
  /-- `CNT` (R22). -/
  cnt       : BitVec 8
  /-- `LEN`; bit `k` is `LEN[k + 3]`, the layout of IE (R23, R27; log 9). -/
  len       : Shadow
  /-- `IE` (R25; log 8). -/
  ie        : Shadow
  /-- `IRQ` (R26; log 8). -/
  irq       : Shadow
  /-- `MIBLK` (R28). -/
  miblk     : Bool
  /-- `RUNMODE` (R29). -/
  runmode   : RunMode
  /-- `BLKCON` (R39). -/
  blkcon    : Byte
  /-- `FATAL` (R40): `none` is 0. -/
  fatal     : Option FatalCode
  /-- `INCYCLE` (R41). -/
  incycle   : Bool
  /-- `OSCCFG` (R30). -/
  osccfg    : Byte
  /-- `ADJ` (R34). -/
  adj       : BitVec 16
  /-- `HSCNT` (R31). -/
  hscnt     : BitVec 7
  /-- `SYSCNT` (R31). -/
  syscnt    : BitVec 1
  /-- `HSSUB` (R32). -/
  hssub     : BitVec 7
  /-- `HSOUT` (R32). -/
  hsout     : Byte
  /-- `HSEDGE` (R32). -/
  hsedge    : Byte
  /-- `LSCNT` (R33). -/
  lscnt     : BitVec 32
  /-- `LSLEN` (R33). -/
  lslen     : BitVec 32
  /-- `LSTC` (R35). -/
  lstc      : BitVec 32
  /-- `LSCORR` (R35). -/
  lscorr    : Correction
  /-- `LSSUB` (R36). -/
  lssub     : BitVec 7
  /-- `LSOUT` (R36). -/
  lsout     : Byte
  /-- `LSEDGE` (R36). -/
  lsedge    : Byte
  /-- `TICKHS` (R37). -/
  tickhs    : Bool
  /-- `TICKSYS` (R37). -/
  ticksys   : Bool
  /-- `TICKLS` (R37). -/
  tickls    : Bool
  /-- `RSTLS` (R38). -/
  rstls     : Bool
  /-- `RSTHS` (R38). -/
  rsths     : Bool
  /-- `RSTLSREQ` (R38). -/
  rstlsreq  : Bool
  /-- `RSTHSREQ` (R38). -/
  rsthsreq  : Bool
  /-- The hardware-variant descriptor (R6); written by no step. -/
  desc      : Descriptor
  /-- Input: the command words to be presented on the command port, in order (R80; log 3). -/
  port      : List CommandWord
  /-- Input: the responses to the coming hook and `Step` events, in order (R9; log 4). -/
  responses : List Response
  /-- Input: the values `core_elevel` and `core_mie` now have (R46; log 5). -/
  coreports   : CorePorts
  /-- Input: the values the ports take at the coming sampling points, in order (R46, R151; log 5). -/
  portsamples : List CorePorts
  /-- Output: the events emitted so far, oldest first (R47, R48; log 6). -/
  events    : List Event
deriving DecidableEq, Repr

/-- Every state element at its power-on value but with `ACT[]` all 0 and `CNT` 0, which is what
construction sets before it emits a hook (R300, R45); no input given and nothing emitted. -/
def blankState (d : Descriptor) : State where
  act       := 0
  cnt       := 0
  len       := 0
  ie        := 0
  irq       := 0
  miblk     := false
  runmode   := d.runmodePor
  blkcon    := 0
  fatal     := none
  incycle   := false
  osccfg    := d.osccfgPor &&& osccfgValid
  adj       := 0
  hscnt     := 0
  syscnt    := 0
  hssub     := 0
  hsout     := 0
  hsedge    := 0
  lscnt     := 0
  lslen     := BitVec.ofNat 32 (lsNom d)
  lstc      := 0
  lscorr    := .zero
  lssub     := 0
  lsout     := 0
  lsedge    := 0
  tickhs    := false
  ticksys   := false
  tickls    := false
  rstls     := false
  rsths     := false
  rstlsreq  := false
  rsthsreq  := false
  desc      := d
  port        := []
  responses   := []
  coreports   := { elevel := 0, mie := false }
  portsamples := []
  events      := []

/-- The power-on column of R45: the reset line is the one active line and `CNT` is 1. -/
def poweredOn (d : Descriptor) : State := { blankState d with act := 1, cnt := 1 }

/-- The machine right after reset: power-on with the default descriptor (log 2), R45. -/
def State.reset : State := poweredOn defaultDescriptor

/-- Why a step stops with a fault. There is no constructor: the spec's fatal errors are a state the machine
enters and stays in (R40, R260; log 7), and it names no other stop. -/
inductive Fault where
deriving DecidableEq, Repr

/-- Why something is refused. -/
inductive Refusal where
  /-- Raised by an arm of exec for an instruction that has no meaning yet; no arm does. Safe: nothing is
  claimed of it. -/
  | notModelled (mnemonic : String)
  /-- Raised by `powerOn` alone, for a descriptor the spec does not admit (R68, R300, U23). Safe: no
  machine is built, so nothing is claimed of it. -/
  | illegalDescriptor
deriving DecidableEq, Repr

end Sys2Proof.Machine
end

