-- ==== Sys2Proof/Machine/Flags.lean ====
section
/-! DEFINITION. The flags of the block: the tick flags, the reset pulses and their request latches, and the
falling-edge bytes (R32, R36 to R38). No command but CYCLE and the two domain-reset writes touches them. -/

namespace Sys2Proof.Machine

/-- The falling-edge pattern of an increment, `old & ~new` (R203, R214 (3)). -/
def fallingEdge (old new : Byte) : Byte := old &&& ~~~new

/-- Part (a) of CLKADV: the request latches become this cycle's pulses (R200, R208). -/
def latchResetPulses (s : State) : State :=
  { s with rstls := s.rstlsreq, rstlsreq := false, rsths := s.rsthsreq, rsthsreq := false }

/-- Step 5 of CYCLE: the tick flags, the pulse flags and the edge bytes are cleared, and the cycle is over;
the request latches are not cleared (R236). -/
def clearCycleFlags (s : State) : State :=
  { s with
    tickhs := false, ticksys := false, tickls := false, rstls := false, rsths := false,
    hsedge := 0, lsedge := 0, incycle := false }

/-- The read-only outputs to peripherals (R49). -/
def peripheralPorts (s : State) : PeripheralPorts where
  hsout   := s.hsout
  hsedge  := s.hsedge
  lsout   := s.lsout
  lsedge  := s.lsedge
  tickhs  := s.tickhs
  ticksys := s.ticksys
  tickls  := s.tickls
  runmode := s.runmode

end Sys2Proof.Machine
end

