-- ==== Sys2Proof/Machine/Operands.lean ====
section
/-! DEFINITION. The operand forms of R82 and R83 and the range checks the operations make on them. Every
operand is an immediate of the command word; there is no other operand form (R50, R82). -/

namespace Sys2Proof.Machine

open Sys2Proof.Config

/-- The maskable range 4..63 that RAISE.MI and CLR.MI accept (R115, R118). -/
def isMaskable (l : Line) : Bool := decide (4 ≤ l.toNat) && decide (l.toNat ≤ 63)

/-- The software range 64..127 that RAISE.SW accepts (R116). -/
def isSoftware (l : Line) : Bool := decide (64 ≤ l.toNat)

/-- An effective maskable line, `4 .. 3 + N`: the lines that have a handle, a `LEN` flag and shadow bits
(R23, R183). -/
def isEffective (d : Descriptor) (l : Line) : Bool :=
  decide (4 ≤ l.toNat) && decide (l.toNat ≤ 3 + lineCount d)

/-- `MANAGED_BASE`, the line index of shadow bit 0 (R6, R27). -/
def managedBase : Nat := 3

/-- `bit(l) = l - 3`, the shadow bit of a line (R27). -/
def shadowBit (l : Line) : Nat := l.toNat - managedBase

/-- The line of shadow bit `k`: `k + 3` (R27). -/
def lineOfBit (k : Nat) : Line := BitVec.ofNat 7 (k + managedBase)

/-- The mode operand of RUNMODE: 0 STOPPED, 1 HALTED, 2 RUNNING, 3 not a mode (R93, R245). -/
def modeOf (mode : BitVec 2) : Option RunMode :=
  match mode.toNat with
  | 0 => some .stopped
  | 1 => some .halted
  | 2 => some .running
  | _ => none

/-- The numeric code of a run mode (R29, R93). -/
def runmodeCode : RunMode → BitVec 2
  | .stopped => 0
  | .halted => 1
  | .running => 2

/-- The numeric code of a fatal error (R93, R261). -/
def fatalCode : FatalCode → BitVec 3
  | .badMaskableIndex => 1
  | .badBlockBit => 2
  | .badSoftwareIndex => 3
  | .illegalCommand => 4
  | .badLineHandle => 5

/-- The value of `FATAL`, 0 when there is no fatal error (R40). -/
def fatalValue (s : State) : BitVec 3 :=
  match s.fatal with
  | none => 0
  | some c => fatalCode c

/-- The value of `RUNMODE` (R29). -/
def runmodeValue (s : State) : BitVec 2 := runmodeCode s.runmode

/-- The numeric code of a diagnostic, the first operand of `Diag` (R93, R148). -/
def diagCode : DiagCode → Nat
  | .swiNested => 1

/-- The software lines 64..127 in ascending order (R21). -/
def softwareLines : List Line := (List.range' 64 64).map (BitVec.ofNat 7)

/-- The maskable lines 4..63 in ascending order (R21). -/
def maskableLines : List Line := (List.range' 4 60).map (BitVec.ofNat 7)

end Sys2Proof.Machine
end

