-- ==== Sys2Proof/Machine/Ops.lean ====
section
/-! DEFINITION. The shared operations: fatal errors and sequencing (R260, R10), events and hooks (R9, R47,
R48), the bitmap with its counter (R110), the shadow bits (R23, R26), the ports (R46), and delivery, which
is the block's taking of an exception (R145 to R147). The block has no return operation (R269). -/

namespace Sys2Proof.Machine

open Sys2Proof.Config

/-- `raise Fatal(c)` (R260): the code is recorded and nothing else is written. -/
def raiseFatal (c : FatalCode) (s : State) : State := { s with fatal := some c }

/-- While `FATAL` is not 0 nothing executes: the state stays as it is (R40, R260). -/
def unlessFatal (f : State → State) (s : State) : State :=
  match s.fatal with
  | none => f s
  | some _ => s

/-- Operations one after another, each to completion; a fatal error in one stops all that follow (R10,
R260). -/
def inOrder : List (State → State) → State → State
  | [], s => s
  | f :: rest, s => inOrder rest (unlessFatal f s)

/-- An operation with an operand check: `if <check fails>: raise Fatal(c)`. -/
def checked (ok : Bool) (c : FatalCode) (f : State → State) (s : State) : State :=
  if ok then f s else raiseFatal c s

/-- `emit E`: the event goes to the end of the output (R8). -/
def emit (e : Event) (s : State) : State := { s with events := s.events ++ [e] }

/-- What executes the response to an event that takes one (R9). Operations that emit such events are
written for any responder; the machine's own is `respond` of Sys2Proof/Machine/Response.lean. -/
abbrev Responder := State → State

/-- `emit H(p)` for a hook event, or `emit Step`: the event, then its response (R9). -/
def hook (r : Responder) (e : Event) (s : State) : State := r (emit e s)

/-- `for p in n .. : f p`, over the listed peripherals in ascending index; a fatal error in one ends the
loop (R8, R260). -/
def eachFrom (f : Nat → Peripheral → State → State) : Nat → List Peripheral → State → State
  | _, [], s => s
  | n, p :: ps, s => eachFrom f (n + 1) ps (unlessFatal (f n p) s)

/-- `for p in 0 .. P-1: f p` (R8). -/
def eachPeripheral (f : Nat → Peripheral → State → State) (s : State) : State :=
  eachFrom f 0 s.desc.periphs s

/-- `PEN[p]`: the peripheral declares no block bit, or its bit of BLKCON is 0 (R39). -/
def periphEnabled (s : State) (p : Peripheral) : Bool :=
  match p.blkbit with
  | none => true
  | some b => !s.blkcon.getLsbD b

/-- One bit of a register set to a value. -/
def putBit {w : Nat} (v : BitVec w) (k : Nat) (b : Bool) : BitVec w :=
  if b then v ||| BitVec.twoPow w k else v &&& ~~~BitVec.twoPow w k

/-- `ACT[l]` (R21). -/
def isActive (s : State) (l : Line) : Bool := s.act.getLsbD l.toNat

/-- `activate(l)` (R110). -/
def activate (l : Line) (s : State) : State :=
  if isActive s l then s else { s with act := putBit s.act l.toNat true, cnt := s.cnt + 1 }

/-- `deactivate(l)` (R110). -/
def deactivate (l : Line) (s : State) : State :=
  if isActive s l then { s with act := putBit s.act l.toNat false, cnt := s.cnt - 1 } else s

/-- `LEN[l]` (R23). -/
def isEnabled (s : State) (l : Line) : Bool := s.len.getLsbD (shadowBit l)

/-- `LEN[l] <- flag` (R180). -/
def setEnabled (l : Line) (flag : Bool) (s : State) : State :=
  { s with len := putBit s.len (shadowBit l) flag }

/-- `IRQ[k]` (R26). -/
def isPending (s : State) (k : Nat) : Bool := s.irq.getLsbD k

/-- `IRQ[k] <- b` (R26). -/
def setPending (k : Nat) (b : Bool) (s : State) : State := { s with irq := putBit s.irq k b }

/-- `for k in 1 .. N: f k`, ascending: the shadow bits of the effective maskable lines (R162, R164). -/
def eachShadowBit (f : Nat → State → State) (s : State) : State :=
  (List.range' 1 (lineCount s.desc)).foldl (fun s k => f k s) s

/-- A sampling point of the ports (R46, R151): they take their next value if one is given, and keep the one
they have otherwise. -/
def samplePorts (s : State) : State :=
  match s.portsamples with
  | [] => s
  | p :: rest => { s with coreports := p, portsamples := rest }

/-- The exception level passed to the core (R147). -/
def exceptionLevel (l : Line) : BitVec 2 :=
  if l = 0 then 0 else if l = 1 ∨ l = 3 then 2 else if l = 2 then 3 else 1

/-- The shadow pending bit that delivery clears: `IRQ[0]` for the non-maskable line, `IRQ[l - 3]` for an
effective maskable line, none for any other (R145). -/
def clearPendingOf (l : Line) (s : State) : State :=
  if l = 3 then setPending 0 false s
  else if isEffective s.desc l then setPending (shadowBit l) false s
  else s

/-- Delivery of line `l` to the core (R145, R146, R268): the pending bit, the slot and the counter,
`RaiseException(level, l)`, and `RUNMODE <- RUNNING`. The block saves nothing. -/
def deliver (l : Line) (s : State) : State :=
  { emit (.raiseException (exceptionLevel l) l) (deactivate l (clearPendingOf l s)) with
    runmode := .running }

end Sys2Proof.Machine
end

