-- ==== Sys2Proof/Machine/Arbiter.lean ====
section
/-! DEFINITION. The fixed-priority arbiter `AcceptInterrupt()` (R140 to R152). -/

namespace Sys2Proof.Machine

/-- `min{ i | ACT[i] = 1 }` over lines listed in ascending order (R140). -/
def lowestActive (s : State) (lines : List Line) : Option Line := lines.find? (isActive s)

/-- The non-maskable line's condition: `core_elevel <= 2` (R143). -/
def nonmaskableDeliverable (s : State) : Bool := decide (s.coreports.elevel.toNat ≤ 2)

/-- The maskable lines' conditions: `core_mie = 1`, `MIBLK = 0`, `core_elevel <= 1` (R144). -/
def maskableDeliverable (s : State) : Bool :=
  s.coreports.mie && !s.miblk && decide (s.coreports.elevel.toNat ≤ 1)

/-- The line the arbiter selects, by the fall-through search of R140: reset, software, emulator-debug, break,
non-maskable, maskable (R141). -/
def selectLine (s : State) : Option Line :=
  if isActive s 0 then some 0
  else
    match lowestActive s softwareLines with
    | some l => some l
    | none =>
      if isActive s 2 then some 2
      else if isActive s 1 then some 1
      else if isActive s 3 && nonmaskableDeliverable s then some 3
      else if maskableDeliverable s then lowestActive s maskableLines
      else none

/-- The diagnostic for a software line accepted from a level above 1, informational only (R148). -/
def diagnoseNested (l : Line) (s : State) : State :=
  if isSoftware l && decide (1 < s.coreports.elevel.toNat) then emit (.diag .swiNested l) s else s

/-- `AcceptInterrupt()` (R140): nothing if `CNT = 0` (R152); otherwise the ports are sampled once (R151) and
at most one line is delivered. If none is deliverable nothing changes (R149). -/
def acceptInterrupt (s : State) : State :=
  if s.cnt = 0 then s
  else
    let s := samplePorts s
    match selectLine s with
    | none => s
    | some l => deliver l (diagnoseNested l s)

end Sys2Proof.Machine
end

