-- ==== Sys2Proof/Machine/Clock.lean ====
section
/-! DEFINITION. The clock generator: the per-cycle advance CLKADV (R200) and the write rules of its four
registers (R210 to R213). Counters are advanced as integers and compared before they are stored (R7, R214). -/

namespace Sys2Proof.Machine

open Sys2Proof.Config

/-- `HSDIV = 2^min(OSCCFG[2:0], 6)` (R30). -/
def hsdiv (s : State) : Nat := 2 ^ min (s.osccfg.extractLsb' 0 3).toNat 6

/-- `LSEN = OSCCFG[3]` (R30). -/
def lsen (s : State) : Bool := s.osccfg.getLsbD 3

/-- The threshold `T` of ADJ and `CPS` (R205): the formula evaluated exactly, truncated toward zero. -/
def thresholdOf (cps : Nat) (adj : BitVec 16) : Int :=
  if adj = 0 then 0
  else Int.tdiv ((baseFreq : Int) * (adj.toInt + adjK)) (adj.toInt * (cps : Int))

/-- `T` in this state; recomputed whenever it is used (R205). -/
def threshold (s : State) : Int := thresholdOf s.desc.cps s.adj

/-- `LSCORR` as a number (R35). -/
def correctionCycles : Correction → Int
  | .shorten => -1
  | .zero => 0
  | .lengthen => 1

/-- The secondary counter, whose overflow at 2 is the system tick (R202). -/
def countSystemTick (s : State) : State :=
  if s.syscnt.toNat + 1 = 2 then { s with ticksys := true, syscnt := 0 }
  else { s with syscnt := BitVec.ofNat 1 (s.syscnt.toNat + 1) }

/-- The 128-step sub-counter and the high-speed output; not in the triggering cycle of a reset (R203). -/
def advanceHsOutput (s : State) : State :=
  if s.rsths then s
  else if s.hssub.toNat + 1 = hsSubsteps then
    { s with hssub := 0, hsout := s.hsout + 1, hsedge := fallingEdge s.hsout (s.hsout + 1) }
  else { s with hssub := BitVec.ofNat 7 (s.hssub.toNat + 1) }

/-- Part (b) of CLKADV: the high-speed and system domains (R200 to R203). -/
def advanceHighSpeed (s : State) : State :=
  if hsdiv s ≤ s.hscnt.toNat + 1 then
    advanceHsOutput (countSystemTick { s with tickhs := true, hscnt := 0 })
  else { s with hscnt := BitVec.ofNat 7 (s.hscnt.toNat + 1) }

/-- The running time counter and the correction it fires (R206). -/
def advanceDrift (s : State) : State :=
  let t := threshold s
  if t = 0 then { s with lstc := 0 }
  else if t.natAbs ≤ s.lstc.toNat + 1 then
    { s with lscorr := if 0 < t then .shorten else .lengthen, lstc := 0 }
  else { s with lstc := BitVec.ofNat 32 (s.lstc.toNat + 1) }

/-- The low-speed sub-counter and output; not in the triggering cycle of a reset (R207). -/
def advanceLsOutput (s : State) : State :=
  if s.rstls then s
  else if s.lssub.toNat + 1 = s.desc.lsSubsteps then
    { s with lssub := 0, lsout := s.lsout + 1, lsedge := fallingEdge s.lsout (s.lsout + 1) }
  else { s with lssub := BitVec.ofNat 7 (s.lssub.toNat + 1) }

/-- The interval counter: at `LSLEN` a low-speed tick, and the next interval consumes the waiting correction
(R204, R206). -/
def advanceInterval (s : State) : State :=
  if s.lslen.toNat ≤ s.lscnt.toNat + 1 then
    advanceLsOutput
      { s with
        tickls := true, lscnt := 0,
        lslen := BitVec.ofInt 32 ((lsNom s.desc : Int) + correctionCycles s.lscorr),
        lscorr := .zero }
  else { s with lscnt := BitVec.ofNat 32 (s.lscnt.toNat + 1) }

/-- Part (c) of CLKADV: the low-speed domain, which holds while `LSEN = 0` (R204 to R207, R218). -/
def advanceLowSpeed (s : State) : State :=
  if lsen s then advanceInterval (advanceDrift s) else s

/-- CLKADV, step 1 of CYCLE, in every run mode (R190, R200, R209). -/
def clockAdvance (s : State) : State := advanceLowSpeed (advanceHighSpeed (latchResetPulses s))

/-- Write of OSCCFG: the four implemented bits (R210). -/
def writeOsccfg (new : Byte) (s : State) : State := { s with osccfg := new &&& osccfgValid }

/-- Write of LSRST, any data (R211): the domain zeroed at once, ADJ kept, a pulse requested. -/
def writeLsrst (s : State) : State :=
  { s with
    lscnt := 0, lslen := BitVec.ofNat 32 (lsNom s.desc), lstc := 0, lscorr := .zero,
    lssub := 0, lsout := 0, lsedge := 0, rstlsreq := true }

/-- Write of HSRST, any data (R212); SYSCNT is not touched. -/
def writeHsrst (s : State) : State :=
  { s with hscnt := 0, hssub := 0, hsout := 0, hsedge := 0, rsthsreq := true }

/-- Write of ADJ, all 16 bits (R213). -/
def writeAdj (new : BitVec 16) (s : State) : State := { s with adj := new }

end Sys2Proof.Machine
end

