-- ==== Sys2Proof/Machine/Controller.lean ====
section
/-! DEFINITION. The interrupt controller's raise, clear, request, break and reset operations (R111 to R121,
R130), as operations on the state; the meanings of the commands are in Sys2Proof/Machine/Commands.lean. -/

namespace Sys2Proof.Machine

open Sys2Proof.Config

/-- `RaiseReset()` (R111). -/
def raiseReset (s : State) : State := activate 0 s

/-- `RaiseBreak()` (R112). -/
def raiseBreak (s : State) : State := activate 1 s

/-- `RaiseEmulatorDebug()` (R113). -/
def raiseEmulatorDebug (s : State) : State := activate 2 s

/-- `RaiseNonmaskable()` (R114): neither `IE[0]` nor `IRQ[0]` is read or written. -/
def raiseNonmaskable (s : State) : State := activate 3 s

/-- `RaiseMaskable(index)` (R115): the whole range 4..63, effective or not. -/
def raiseMaskable (index : Line) (s : State) : State :=
  checked (isMaskable index) .badMaskableIndex (activate index) s

/-- `RaiseSoftware(index)` (R116). -/
def raiseSoftware (index : Line) (s : State) : State :=
  checked (isSoftware index) .badSoftwareIndex (activate index) s

/-- `ResetNonmaskable()` (R117): `IRQ[0]` is not written. -/
def resetNonmaskable (s : State) : State := deactivate 3 s

/-- `ResetMaskable(index)` (R118). -/
def resetMaskable (index : Line) (s : State) : State :=
  checked (isMaskable index) .badMaskableIndex (deactivate index) s

/-- `RequestNonmaskable()` (R120): the request is remembered in `IRQ[0]` whatever `IRQ_VALID` is. -/
def requestNonmaskable (s : State) : State :=
  let s := setPending 0 true s
  if s.ie.getLsbD 0 then raiseNonmaskable s else s

/-- The controller part of `Reset()` (R130): every slot, flag and shadow bit cleared, then the reset line
activated. -/
def resetController (s : State) : State :=
  activate 0 { s with ie := 0, irq := 0, len := 0, act := 0, cnt := 0 }

/-- `Reset()` (R130): the peripherals' `Reset` hooks in ascending order, then the controller. -/
def resetBlock (r : Responder) (s : State) : State :=
  inOrder [eachPeripheral (fun n _ => hook r (.resetPeriph n)), resetController] s

/-- `Break()` (R121): the port `core_elevel` is sampled here (D45). -/
def breakBlock (r : Responder) (s : State) : State :=
  let s := samplePorts s
  if 1 < s.coreports.elevel.toNat then resetBlock r s else raiseBreak s

end Sys2Proof.Machine
end

