-- ==== Sys2Proof/Machine/InterruptLine.lean ====
section
/-! DEFINITION. The Interrupt Line operations `SetEnabled`, `TryRaise`, `ResetInt` (R180 to R183). -/

namespace Sys2Proof.Machine

/-- What `TryRaise()` does on an effective line (R181): pending in every case, active if enabled. -/
def tryRaise (l : Line) (s : State) : State :=
  let s := setPending (shadowBit l) true s
  if isEnabled s l then activate l s else s

/-- What `ResetInt()` does on an effective line (R182). -/
def resetInt (l : Line) (s : State) : State := deactivate l (setPending (shadowBit l) false s)

/-- `LINE.EN l, flag` (R180): the local flag only; neither IE, IRQ nor the bitmap. -/
def lineEnable (l : Line) (flag : Bool) (s : State) : State :=
  checked (isEffective s.desc l) .badLineHandle (setEnabled l flag) s

/-- `LINE.TRY l` (R181). -/
def lineTryRaise (l : Line) (s : State) : State :=
  checked (isEffective s.desc l) .badLineHandle (tryRaise l) s

/-- `LINE.CLR l` (R182). -/
def lineResetInt (l : Line) (s : State) : State :=
  checked (isEffective s.desc l) .badLineHandle (resetInt l) s

end Sys2Proof.Machine
end

