-- ==== Sys2Proof/Machine/Bus.lean ====
section
/-! DEFINITION. The register bus: address decoding, the byte read and the byte write (R60 to R74), and the
write rules of IE, IRQ and BLKCON (R162, R164, R240). -/

namespace Sys2Proof.Machine

open Sys2Proof.Config

/-- The register a list of ranges holds at an address, and the offset in it (R60). -/
def locateIn (addr : Addr) : List (Reg × Addr × Nat) → Option (Reg × Nat)
  | [] => none
  | (reg, base, bytes) :: rest =>
    if base.toNat ≤ addr.toNat ∧ addr.toNat < base.toNat + bytes then
      some (reg, addr.toNat - base.toNat)
    else locateIn addr rest

/-- The register and offset of an address, or none: a bus miss (R60, R72). -/
def locate (d : Descriptor) (addr : Addr) : Option (Reg × Nat) := locateIn addr (registerMap d)

/-- The value a register's read rule returns, zero-extended to three bytes: the stored value with the bits
that do not exist at 0 (R62, R160, R161, R215, R241). LSRST and HSRST read as their domain's output. -/
def registerValue (s : State) : Reg → BitVec 24
  | .osccfg => (s.osccfg &&& osccfgValid).setWidth 24
  | .lsrst => s.lsout.setWidth 24
  | .hsrst => s.hsout.setWidth 24
  | .adj => s.adj.setWidth 24
  | .ie => (s.ie &&& shadowMask s.desc).setWidth 24
  | .irq => (s.irq &&& shadowMask s.desc).setWidth 24
  | .blkcon => s.blkcon.setWidth 24

/-- The byte at offset `k`: bits `8k + 7 .. 8k` (R62). -/
def byteAt (v : BitVec 24) (k : Nat) : Byte := v.extractLsb' (8 * k) 8

/-- `(old & ~(0xFF << 8k)) | (v << 8k)` (R64). -/
def mergeByte (old : BitVec 24) (k : Nat) (v : Byte) : BitVec 24 :=
  (old &&& ~~~(0xFF#24 <<< (8 * k))) ||| (v.setWidth 24 <<< (8 * k))

/-- `MemRead(addr, 1)`, or none at an address in no register's range (R63, R72). -/
def busRead (s : State) (addr : Addr) : Option Byte :=
  (locate s.desc addr).map (fun rk => byteAt (registerValue s rk.1) rk.2)

/-- `IEWrite(new)` (R162): the register, every `LEN` flag, and the non-maskable line. -/
def writeIe (new : BitVec 24) (s : State) : State :=
  let v := new.setWidth 22 &&& ieValid s.desc
  let s := { s with ie := v }
  let s := eachShadowBit (fun k => setEnabled (lineOfBit k) (v.getLsbD k)) s
  if v.getLsbD 0 then
    if isPending s 0 then raiseNonmaskable s else s
  else resetNonmaskable s

/-- `IRQWrite(new)` (R164): the register, LINE.TRY or LINE.CLR on every effective line in ascending order,
and the non-maskable line. -/
def writeIrq (new : BitVec 24) (s : State) : State :=
  let v := new.setWidth 22 &&& irqValid s.desc
  let s := { s with irq := v }
  let s := eachShadowBit (fun k => if v.getLsbD k then tryRaise (lineOfBit k) else resetInt (lineOfBit k)) s
  if v.getLsbD 0 then
    if s.ie.getLsbD 0 then raiseNonmaskable s else s
  else resetNonmaskable s

/-- The hook a block-bit transition emits for one peripheral: `Uninitialise` from enabled to disabled,
`Initialise` from disabled to enabled (R240). -/
def blockTransition (old new : Byte) (n : Nat) (p : Peripheral) : Option Event :=
  match p.blkbit with
  | none => none
  | some b =>
    if !old.getLsbD b && new.getLsbD b then some (.uninitialise n)
    else if old.getLsbD b && !new.getLsbD b then some (.initialise n)
    else none

/-- A hook that may not be due. -/
def hookIfDue (r : Responder) (e : Option Event) (s : State) : State :=
  match e with
  | none => s
  | some e => hook r e s

/-- Write of BLKCON (R240): the register first, then the hooks in ascending order. -/
def writeBlkcon (r : Responder) (new : Byte) (s : State) : State :=
  let v := new &&& s.desc.blkValid
  let old := s.blkcon
  eachPeripheral (fun n p => hookIfDue r (blockTransition old v n p)) { s with blkcon := v }

/-- The write rule of a register, on the full value with the one addressed byte replaced (R64, R67). -/
def writeRegister (r : Responder) (reg : Reg) (new : BitVec 24) (s : State) : State :=
  match reg with
  | .osccfg => writeOsccfg (new.setWidth 8) s
  | .lsrst => writeLsrst s
  | .hsrst => writeHsrst s
  | .adj => writeAdj (new.setWidth 16) s
  | .ie => writeIe new s
  | .irq => writeIrq new s
  | .blkcon => writeBlkcon r (new.setWidth 8) s

/-- `WR addr, data` (R74): `MemWrite(addr, 1, data)`, or `BusMiss(addr)`. -/
def busWrite (r : Responder) (addr : Addr) (data : Byte) (s : State) : State :=
  match locate s.desc addr with
  | some (reg, k) => writeRegister r reg (mergeByte (registerValue s reg) k data) s
  | none => emit (.busMiss addr) s

/-- `RD addr` (R73): no state of the block changes; the byte goes to the environment, or `BusMiss(addr)`
does and there is no value (R72). -/
def busReadOut (addr : Addr) (s : State) : State :=
  match busRead s addr with
  | some v => emit (.readData addr v) s
  | none => emit (.busMiss addr) s

end Sys2Proof.Machine
end

