-- ==== Sys2Proof/Machine/Scheduler.lean ====
section
/-! DEFINITION. The tick scheduler: the five steps of CYCLE (R230 to R236), and the commands RUNMODE and
MIBLK (R245, R246). -/

namespace Sys2Proof.Machine

open Sys2Proof.Config

/-- What step 2 dispatches to one peripheral: the table of R233, nothing if it is disabled (R243). -/
def dispatchEvent (s : State) (n : Nat) (p : Peripheral) : Option Event :=
  if periphEnabled s p then
    match p.domain with
    | .none => some (.tick n)
    | .ls =>
      if s.rstls then some (.resetLsclk n)
      else if s.tickls then some (.tick n)
      else none
    | .hs => if !s.rsths && s.tickhs then some (.tick n) else none
    | .sys => if s.ticksys then some (.tick n) else none
    | .stopped => none
  else none

/-- The start of CYCLE: `INCYCLE <- 1` (R230). -/
def beginCycle (s : State) : State := { s with incycle := true }

/-- Step 2 (R233): ascending order; each response is executed before the next peripheral is looked at. -/
def dispatchTicks (r : Responder) (s : State) : State :=
  eachPeripheral (fun n p s => hookIfDue r (dispatchEvent s n p) s) s

/-- Step 3, first half (R234): the arbiter, once, if any line is active. -/
def arbitrate (s : State) : State := if s.cnt = 0 then s else acceptInterrupt s

/-- Step 3, second half (R234): `TickAfterInterrupts` to every peripheral, unconditionally. -/
def tickAfterAll (r : Responder) (s : State) : State :=
  eachPeripheral (fun n _ => hook r (.tickAfterInterrupts n)) s

/-- Step 4 (R235): one instruction of the core, if running and the system tick is set. -/
def stepCore (r : Responder) (s : State) : State :=
  if s.runmode = .running ∧ s.ticksys = true then hook r .step s else s

/-- CYCLE (R230): `Fatal(4)` inside a cycle (R231); otherwise the five steps in order, ended where a fatal
error stands. -/
def runCycle (r : Responder) (s : State) : State :=
  if s.incycle then raiseFatal .illegalCommand s
  else
    inOrder
      [beginCycle, clockAdvance, dispatchTicks r, arbitrate, tickAfterAll r, stepCore r, clearCycleFlags] s

/-- `RUNMODE mode` (R245): the code 3 raises `Fatal(4)` and is never stored. -/
def setRunmode (mode : BitVec 2) (s : State) : State :=
  match modeOf mode with
  | some m => { s with runmode := m }
  | none => raiseFatal .illegalCommand s

/-- `MIBLK flag` (R246). -/
def setMiblk (flag : Bool) (s : State) : State := { s with miblk := flag }

end Sys2Proof.Machine
end

