-- ==== Sys2Proof/Machine/Response.lean ====
section
/-! DEFINITION. The responses of the environment (R9): a command inside a response is executed by the same
operation as on the command port, and the hooks it emits take responses in turn. -/

namespace Sys2Proof.Machine

/-- The operation of each command, for any responder (R8, `call OP`). -/
def perform (r : Responder) : Instr → State → State
  | .cycle => runCycle r
  | .rst => resetBlock r
  | .brk => breakBlock r
  | .accept => acceptInterrupt
  | .raiseRst => raiseReset
  | .raiseBrk => raiseBreak
  | .raiseEmu => raiseEmulatorDebug
  | .raiseNmi => raiseNonmaskable
  | .raiseMi index => raiseMaskable index
  | .raiseSw index => raiseSoftware index
  | .clrNmi => resetNonmaskable
  | .clrMi index => resetMaskable index
  | .reqNmi => requestNonmaskable
  | .lineEn index flag => lineEnable index flag
  | .lineTry index => lineTryRaise index
  | .lineClr index => lineResetInt index
  | .wr addr data => busWrite r addr data
  | .rd addr => busReadOut addr
  | .runmode mode => setRunmode mode
  | .miblk flag => setMiblk flag

/-- A word of a response: its command, or `Fatal(4)` if it is illegal (R86). -/
def performWord (r : Responder) (w : CommandWord) (s : State) : State :=
  match decode w with
  | .ok i => perform r i s
  | .error _ => raiseFatal .illegalCommand s

/-- A response executed in order, each command to completion (R9); a fatal error ends it (R260). -/
def runResponse (r : Responder) (ws : Response) (s : State) : State := inOrder (ws.map (performWord r)) s

/-- The response to an event, with the responses nested in it to a depth of `n`: the next response of the
environment's list is taken out and executed. When none is listed the response is the empty list. Every
response nested in another is taken from the rest of the list, so a depth of the list's length is enough. -/
def respondWithin : Nat → Responder
  | 0, s => s
  | n + 1, s =>
    match s.responses with
    | [] => s
    | ws :: rest => runResponse (respondWithin n) ws { s with responses := rest }

/-- The machine's responder (R9; log 4). -/
def respond (s : State) : State := respondWithin s.responses.length s

end Sys2Proof.Machine
end

