-- ==== Sys2Proof/Machine/Commands.lean ====
section
/-! DEFINITION. The meaning of each command on the command port: its operation, executed to completion with
the environment's responses; ignored while FATAL is not 0 (R260). No meaning stops. -/

namespace Sys2Proof.Machine

/-- A command on the command port: ignored while FATAL is not 0, otherwise run to completion (R10, R260). -/
def command (op : State → State) (s : State) : Host.Outcome State Fault Refusal := .next (unlessFatal op s)

/-- CYCLE (R230). -/
def execCycle (s : State) : Host.Outcome State Fault Refusal := command (runCycle respond) s

/-- RST (R130). -/
def execRst (s : State) : Host.Outcome State Fault Refusal := command (resetBlock respond) s

/-- BRK (R121). -/
def execBrk (s : State) : Host.Outcome State Fault Refusal := command (breakBlock respond) s

/-- ACCEPT (R140). -/
def execAccept (s : State) : Host.Outcome State Fault Refusal := command acceptInterrupt s

/-- RAISE.RST (R111). -/
def execRaiseRst (s : State) : Host.Outcome State Fault Refusal := command raiseReset s

/-- RAISE.BRK (R112). -/
def execRaiseBrk (s : State) : Host.Outcome State Fault Refusal := command raiseBreak s

/-- RAISE.EMU (R113). -/
def execRaiseEmu (s : State) : Host.Outcome State Fault Refusal := command raiseEmulatorDebug s

/-- RAISE.NMI (R114). -/
def execRaiseNmi (s : State) : Host.Outcome State Fault Refusal := command raiseNonmaskable s

/-- RAISE.MI (R115). -/
def execRaiseMi (index : Line) (s : State) : Host.Outcome State Fault Refusal := command (raiseMaskable index) s

/-- RAISE.SW (R116). -/
def execRaiseSw (index : Line) (s : State) : Host.Outcome State Fault Refusal := command (raiseSoftware index) s

/-- CLR.NMI (R117). -/
def execClrNmi (s : State) : Host.Outcome State Fault Refusal := command resetNonmaskable s

/-- CLR.MI (R118). -/
def execClrMi (index : Line) (s : State) : Host.Outcome State Fault Refusal := command (resetMaskable index) s

/-- REQ.NMI (R120). -/
def execReqNmi (s : State) : Host.Outcome State Fault Refusal := command requestNonmaskable s

/-- LINE.EN (R180). -/
def execLineEn (index : Line) (flag : Bool) (s : State) : Host.Outcome State Fault Refusal :=
  command (lineEnable index flag) s

/-- LINE.TRY (R181). -/
def execLineTry (index : Line) (s : State) : Host.Outcome State Fault Refusal := command (lineTryRaise index) s

/-- LINE.CLR (R182). -/
def execLineClr (index : Line) (s : State) : Host.Outcome State Fault Refusal := command (lineResetInt index) s

/-- WR (R74). -/
def execWr (addr : Addr) (data : Byte) (s : State) : Host.Outcome State Fault Refusal :=
  command (busWrite respond addr data) s

/-- RD (R73). -/
def execRd (addr : Addr) (s : State) : Host.Outcome State Fault Refusal := command (busReadOut addr) s

/-- RUNMODE (R245). -/
def execRunmode (mode : BitVec 2) (s : State) : Host.Outcome State Fault Refusal := command (setRunmode mode) s

/-- MIBLK (R246). -/
def execMiblk (flag : Bool) (s : State) : Host.Outcome State Fault Refusal := command (setMiblk flag) s

/-- An illegal command word on the command port (R86): `Fatal(4)` and nothing else. -/
def execIllegal (s : State) : Host.Outcome State Fault Refusal := command (raiseFatal .illegalCommand) s

end Sys2Proof.Machine
end

