-- ==== Sys2Proof/Machine/Dispatch.lean ====
section
/-! DEFINITION. One arm per command. -/

namespace Sys2Proof.Machine

def exec (i : Instr) (s : State) : Host.Outcome State Fault Refusal :=
  match i with
  | .cycle => Sys2Proof.Machine.execCycle s
  | .rst => Sys2Proof.Machine.execRst s
  | .brk => Sys2Proof.Machine.execBrk s
  | .accept => Sys2Proof.Machine.execAccept s
  | .raiseRst => Sys2Proof.Machine.execRaiseRst s
  | .raiseBrk => Sys2Proof.Machine.execRaiseBrk s
  | .raiseEmu => Sys2Proof.Machine.execRaiseEmu s
  | .raiseNmi => Sys2Proof.Machine.execRaiseNmi s
  | .raiseMi index => Sys2Proof.Machine.execRaiseMi index s
  | .raiseSw index => Sys2Proof.Machine.execRaiseSw index s
  | .clrNmi => Sys2Proof.Machine.execClrNmi s
  | .clrMi index => Sys2Proof.Machine.execClrMi index s
  | .reqNmi => Sys2Proof.Machine.execReqNmi s
  | .lineEn index flag => Sys2Proof.Machine.execLineEn index flag s
  | .lineTry index => Sys2Proof.Machine.execLineTry index s
  | .lineClr index => Sys2Proof.Machine.execLineClr index s
  | .wr addr data => Sys2Proof.Machine.execWr addr data s
  | .rd addr => Sys2Proof.Machine.execRd addr s
  | .runmode mode => Sys2Proof.Machine.execRunmode mode s
  | .miblk flag => Sys2Proof.Machine.execMiblk flag s

end Sys2Proof.Machine
end

