-- ==== Sys2Proof/Machine/Port.lean ====
section
/-! DEFINITION. The command port (R80): how the next command word is taken, and how one is presented. -/

namespace Sys2Proof.Machine

/-- The word now presented on the command port and the state with it taken; none when the environment
presents nothing (log 3). -/
def takeWord (s : State) : Option (CommandWord × State) :=
  match s.port with
  | [] => none
  | w :: rest => some (w, { s with port := rest })

/-- The state in which the word is the next one presented (log 3). -/
def presentWord (w : CommandWord) (s : State) : State := { s with port := w :: s.port }

end Sys2Proof.Machine
end

