-- ==== Sys2Proof/Machine/Step.lean ====
section
/-! DEFINITION. One step: the block takes the presented word, decodes it, and executes the command to
completion (R80). With no word presented nothing happens (log 3). -/

namespace Sys2Proof.Machine

/-- One step of the machine. -/
def step (s : State) : Host.Outcome State Fault Refusal :=
  match takeWord s with
  | none => .next s
  | some (w, s') =>
    match decode w with
    | .ok i => exec i s'
    | .error _ => execIllegal s'

/-- The word presented as the next command (log 3, log 23): a command is one 32-bit word, whatever `nbits`. -/
def State.withFetchWord (s : State) (_nbits w : Nat) : State := presentWord (BitVec.ofNat 32 w) s

end Sys2Proof.Machine
end

