-- ==== Sys2Proof/Machine/PowerOn.lean ====
section
/-! DEFINITION. Construction of the block (R300): the descriptor's checks, the power-on values, the
`Initialise` hooks, and RST. It is no command; State.reset is its result for the default descriptor. -/

namespace Sys2Proof.Machine

open Sys2Proof.Config

/-- What the environment supplies at construction: its responses and what the core's ports present. -/
structure Environment where
  responses   : List Response
  coreports   : CorePorts
  portsamples : List CorePorts
deriving DecidableEq, Repr

/-- The environment that answers every hook with the empty response and presents 0 on both ports. -/
def quietEnvironment : Environment :=
  { responses := [], coreports := { elevel := 0, mie := false }, portsamples := [] }

/-- The block under construction, in its environment. -/
def underConstruction (d : Descriptor) (env : Environment) : State :=
  { blankState d with
    responses := env.responses, coreports := env.coreports, portsamples := env.portsamples }

/-- POWERON (R300). A descriptor the spec does not admit is refused (U23); a bad block bit raises
`Fatal(2)` before any hook (R242). -/
def powerOn (d : Descriptor) (env : Environment) : Host.Outcome State Fault Refusal :=
  if legalDescriptor d then
    if blockBitsOk d then
      .next (inOrder
        [eachPeripheral (fun n _ => hook respond (.initialise n)), resetBlock respond]
        (underConstruction d env))
    else .next (raiseFatal .badBlockBit (underConstruction d env))
  else .refused .illegalDescriptor

end Sys2Proof.Machine
end

