-- ==== Sys2Proof/Machine/Pseudo.lean ====
section
/-! DEFINITION. The pseudo-commands and their expansions (R88): the toolchain's, not the block's. -/

namespace Sys2Proof.Machine

open Sys2Proof.Config

/-- The pseudo-commands of R88. A value is a number of which the written bytes are taken and the
rest dropped (DESIGN CHOICE, log 26); `swi n` is for `n` in 0..63. -/
inductive Pseudo where
  | wr16 (addr : Addr) (v : Nat)
  | wr24 (addr : Addr) (v : Nat)
  | wrie (v : Nat)
  | wrirq (v : Nat)
  | wradj (v : Nat)
  | cycles (n : Nat)
  | swi (n : BitVec 6)
  | stop
  | halt
  | run
deriving DecidableEq, Repr

/-- `WR base+k, v[8k+7:8k]` for `k = 0 .. n-1`, ascending (R88). DESIGN CHOICE (log 25): R88 does not say what
`a+1` or `a+2` past 0xFFFF is; here the address wraps modulo 2^16. -/
def writeBytes (base : Addr) (n v : Nat) : List Instr :=
  (List.range n).map (fun k => .wr (base + BitVec.ofNat 16 k) (BitVec.ofNat 8 (v / 2 ^ (8 * k))))

/-- The expansion of a pseudo-command (R88). -/
def expand (d : Descriptor) : Pseudo → List Instr
  | .wr16 addr v => writeBytes addr 2 v
  | .wr24 addr v => writeBytes addr 3 v
  | .wrie v => writeBytes d.aIe (shadowBytes d) v
  | .wrirq v => writeBytes d.aIrq (shadowBytes d) v
  | .wradj v => writeBytes d.aAdj 2 v
  | .cycles n => List.replicate n .cycle
  | .swi n => [.raiseSw (1#1 ++ n)]
  | .stop => [.runmode 0]
  | .halt => [.runmode 1]
  | .run => [.runmode 2]

end Sys2Proof.Machine
end

