-- ==== Sys2Proof/Safety.lean ====
section
/-! DEFINITION. The words claims are made in: a safe state, the invariants of R43, what a raise or a clear of
one line is, which lines are deliverable and in what order, and counting ticks over cycles. -/

namespace Sys2Proof.Machine

open Sys2Proof.Config

/-- The block has met a fatal error (R40, R260): the state the spec tells a model to treat as a fault. -/
abbrev State.Faulted (s : State) : Prop := s.fatal ≠ none

/-- How many slots of the bitmap are set (R22). -/
def activeCount (act : BitVec 128) : Nat := (List.range 128).countP (fun i => act.getLsbD i)

/-- (I1) of R43: `CNT` equals the number of set slots. -/
abbrev State.CounterAgrees (s : State) : Prop := s.cnt.toNat = activeCount s.act

/-- (I2) of R43, and for `LEN` that only effective lines have a flag (R23). -/
abbrev State.ShadowsValid (s : State) : Prop :=
  s.ie &&& ~~~ieValid s.desc = 0 ∧ s.irq &&& ~~~shadowMask s.desc = 0
    ∧ s.len &&& ~~~(shadowMask s.desc &&& ~~~1#22) = 0

/-- Every per-cycle flag and edge byte is 0 (R37, R38, R32, R36). -/
abbrev State.CycleFlagsClear (s : State) : Prop :=
  s.tickhs = false ∧ s.ticksys = false ∧ s.tickls = false ∧ s.rstls = false ∧ s.rsths = false
    ∧ s.hsedge = 0 ∧ s.lsedge = 0

/-- (I3) of R43 between commands: no cycle is in progress and the per-cycle flags are 0, unless a fatal
error ended a cycle where it stood (R260). -/
abbrev State.QuietBetweenCommands (s : State) : Prop :=
  s.fatal = none → s.incycle = false ∧ s.CycleFlagsClear

/-- (I4) of R43, and the range of `LSLEN` (R33) with `LSCNT` below it. -/
abbrev State.CountersInRange (s : State) : Prop :=
  s.hscnt.toNat < 64 ∧ s.lssub.toNat < s.desc.lsSubsteps
    ∧ lsNom s.desc ≤ s.lslen.toNat + 1 ∧ s.lslen.toNat ≤ lsNom s.desc + 1
    ∧ s.lscnt.toNat < s.lslen.toNat

/-- The bits of OSCCFG and BLKCON that cannot hold 1 do not (R30, R39). -/
abbrev State.RegistersValid (s : State) : Prop :=
  s.osccfg &&& ~~~osccfgValid = 0 ∧ s.blkcon &&& ~~~s.desc.blkValid = 0

/-- The invariant of the block (R43, with R23, R30, R33, R39). -/
abbrev State.Inv (s : State) : Prop :=
  legalDescriptor s.desc = true ∧ s.CounterAgrees ∧ s.ShadowsValid ∧ s.CountersInRange ∧ s.RegistersValid
    ∧ s.QuietBetweenCommands

/-- `t` is `s` with line `l` activated exactly once: the slot is set, `CNT` counts the transition, an active
line stays as it is, and nothing else differs (R110). -/
def LineRaised (l : Line) (s t : State) : Prop :=
  t = { s with act := t.act, cnt := t.cnt }
    ∧ (∀ m, isActive t m = (decide (m = l) || isActive s m))
    ∧ t.cnt = (if isActive s l then s.cnt else s.cnt + 1)

/-- `t` is `s` with line `l` deactivated: the slot is clear, `CNT` counts the transition, an inactive line
stays as it is, and nothing else differs (R110). -/
def LineLowered (l : Line) (s t : State) : Prop :=
  t = { s with act := t.act, cnt := t.cnt }
    ∧ (∀ m, isActive t m = (!decide (m = l) && isActive s m))
    ∧ t.cnt = (if isActive s l then s.cnt - 1 else s.cnt)

/-- The state at a sampling point: the next value of the ports if one is given, else the present one (R46). -/
def sampled (s : State) : State :=
  { s with coreports := s.portsamples.headD s.coreports, portsamples := s.portsamples.tail }

/-- The lines that are deliverable with the ports as they are (R142 to R144). -/
abbrev Deliverable (s : State) (l : Line) : Prop :=
  isActive s l = true
    ∧ (l.toNat = 3 → s.coreports.elevel.toNat ≤ 2)
    ∧ (4 ≤ l.toNat ∧ l.toNat ≤ 63 →
        s.coreports.mie = true ∧ s.miblk = false ∧ s.coreports.elevel.toNat ≤ 1)

/-- The place of a line in the order 0; 64, .., 127; 2; 1; 3; 4, .., 63 (R141). -/
def priorityRank (l : Line) : Nat :=
  if l.toNat = 0 then 0
  else if 64 ≤ l.toNat then l.toNat - 63
  else if l.toNat = 2 then 65
  else if l.toNat = 1 then 66
  else if l.toNat = 3 then 67
  else 64 + l.toNat

/-- `l` is the deliverable line that comes first in the order of R141. -/
def FirstDeliverable (s : State) (l : Line) : Prop :=
  Deliverable s l ∧ ∀ m, Deliverable s m → priorityRank l ≤ priorityRank m

/-- The level of a delivered line, as the table of R147 has it. -/
def levelOf (l : Line) : BitVec 2 :=
  match l.toNat with
  | 0 => 0
  | 1 => 2
  | 2 => 3
  | 3 => 2
  | _ => 1

/-- The attributes of an effective line as the triple of R184: enabled, pending, active. -/
def lineTriple (s : State) (l : Line) : Bool × Bool × Bool :=
  (isEnabled s l, isPending s (shadowBit l), isActive s l)

/-- Which register an address belongs to, with no order among the ranges: some row of the map holds it. -/
def AddressOf (d : Descriptor) (reg : Reg) (k : Nat) (addr : Addr) : Prop :=
  ∃ base bytes, (reg, base, bytes) ∈ registerMap d ∧ k < bytes ∧ addr.toNat = base.toNat + k

/-- An address in no register's range (R72). -/
def Unmapped (d : Descriptor) (addr : Addr) : Prop := ∀ reg k, ¬ AddressOf d reg k addr

/-- Bit `j` of a shadow register after a write of `data` at offset `k`, under a valid mask (R64, R162, R164). -/
def writtenBit (old valid : Shadow) (k : Nat) (data : Byte) (j : Nat) : Bool :=
  valid.getLsbD j && (if 8 * k ≤ j ∧ j < 8 * k + 8 then data.getLsbD (j - 8 * k) else old.getLsbD j)

/-- The hook a write of BLKCON emits for one peripheral (R240). -/
def blockHook (old new : Byte) (n : Nat) (p : Peripheral) : Option Event :=
  match p.blkbit with
  | none => none
  | some b =>
    match old.getLsbD b, new.getLsbD b with
    | false, true => some (.uninitialise n)
    | true, false => some (.initialise n)
    | _, _ => none

/-- The hooks a write of BLKCON emits, in ascending order (R240). -/
def blockHooks (d : Descriptor) (old new : Byte) : List Event :=
  d.periphs.zipIdx.filterMap (fun pn => blockHook old new pn.2 pn.1)

/-- What step 2 dispatches to one peripheral, as the table of R233 has it. -/
def tableEvent (s : State) (n : Nat) (p : Peripheral) : Option Event :=
  if periphEnabled s p = false then none
  else
    match p.domain, s.rstls, s.tickls, s.rsths, s.tickhs, s.ticksys with
    | .none, _, _, _, _, _ => some (.tick n)
    | .ls, true, _, _, _, _ => some (.resetLsclk n)
    | .ls, false, true, _, _, _ => some (.tick n)
    | .hs, _, _, false, true, _ => some (.tick n)
    | .sys, _, _, _, _, true => some (.tick n)
    | _, _, _, _, _, _ => none

/-- The events step 2 dispatches in ascending order (R233). -/
def dispatched (s : State) : List Event :=
  s.desc.periphs.zipIdx.filterMap (fun pn => tableEvent s pn.2 pn.1)

/-- The state after the events due to the first `n` peripherals, each with its response executed before the
next peripheral is looked at (R8, R9). `ev k t` is the event due to peripheral `k` in state `t`. -/
def afterEvents (ev : Nat → State → Option Event) : Nat → State → State
  | 0, s => s
  | n + 1, s =>
    match ev n (afterEvents ev n s) with
    | none => afterEvents ev n s
    | some e => respond (emit e (afterEvents ev n s))

/-- No fatal error stands before or after any of the first `n` peripherals. -/
def NoFatalThrough (ev : Nat → State → Option Event) (n : Nat) (s : State) : Prop :=
  ∀ j, j ≤ n → (afterEvents ev j s).fatal = none

/-- The response to the event of peripheral `k` is the first that raises a fatal error. -/
def FirstFatalAt (ev : Nat → State → Option Event) (k : Nat) (s : State) : Prop :=
  NoFatalThrough ev k s ∧ (afterEvents ev (k + 1) s).fatal ≠ none

/-- `Reset(p)` to every peripheral (R130). -/
def resetEvent (n : Nat) (_ : State) : Option Event := some (.resetPeriph n)

/-- `Initialise(p)` to every peripheral (R300). -/
def initialiseEvent (n : Nat) (_ : State) : Option Event := some (.initialise n)

/-- `TickAfterInterrupts(p)` to every peripheral (R234). -/
def afterInterruptsEvent (n : Nat) (_ : State) : Option Event := some (.tickAfterInterrupts n)

/-- The dispatch of step 2 by the index of a peripheral (R233). -/
def dispatchOf (d : Descriptor) (n : Nat) (s : State) : Option Event := (d.periphs[n]?).bind (tableEvent s n)

/-- The hook of a write of BLKCON by the index of a peripheral (R240). -/
def blockEvent (d : Descriptor) (old new : Byte) (n : Nat) (_ : State) : Option Event :=
  (d.periphs[n]?).bind (blockHook old new n)

/-- The commands of a list, each to completion, one after another (R69). -/
def execAll : List Instr → State → Host.Outcome State Fault Refusal
  | [], s => .next s
  | i :: rest, s =>
    match exec i s with
    | .next t => execAll rest t
    | .fault r => .fault r
    | .refused r => .refused r

/-- A state that differs from `s` at most in the elements of R31 to R38 other than ADJ and OSCCFG: the counters,
outputs, edge bytes, tick flags, pulses and request latches of the clock generator (R200, "State written"). -/
def SameButClock (s t : State) : Prop :=
  t = { s with
    hscnt := t.hscnt, syscnt := t.syscnt, hssub := t.hssub, hsout := t.hsout, hsedge := t.hsedge,
    lscnt := t.lscnt, lslen := t.lslen, lstc := t.lstc, lscorr := t.lscorr, lssub := t.lssub,
    lsout := t.lsout, lsedge := t.lsedge, tickhs := t.tickhs, ticksys := t.ticksys, tickls := t.tickls,
    rstls := t.rstls, rsths := t.rsths, rstlsreq := t.rstlsreq, rsthsreq := t.rsthsreq }

/-- The clock state after one cycle in which nothing else touches it: the advance of step 1 and the clearing
of step 5 (R200, R236). -/
def clockCycle (s : State) : State := clearCycleFlags (clockAdvance s)

/-- High-speed ticks in the next `n` such cycles. -/
def hsTicks : Nat → State → Nat
  | 0, _ => 0
  | n + 1, s => (if (clockAdvance s).tickhs then 1 else 0) + hsTicks n (clockCycle s)

/-- System ticks in the next `n` such cycles. -/
def sysTicks : Nat → State → Nat
  | 0, _ => 0
  | n + 1, s => (if (clockAdvance s).ticksys then 1 else 0) + sysTicks n (clockCycle s)

/-- The fatal code a command meets by its operand or by nesting (R261), none if it meets none. -/
def violation (s : State) : Instr → Option FatalCode
  | .cycle => if s.incycle then some .illegalCommand else none
  | .raiseMi l => if l.toNat < 4 ∨ 63 < l.toNat then some .badMaskableIndex else none
  | .clrMi l => if l.toNat < 4 ∨ 63 < l.toNat then some .badMaskableIndex else none
  | .raiseSw l => if l.toNat < 64 then some .badSoftwareIndex else none
  | .lineEn l _ => if l.toNat < 4 ∨ 3 + lineCount s.desc < l.toNat then some .badLineHandle else none
  | .lineTry l => if l.toNat < 4 ∨ 3 + lineCount s.desc < l.toNat then some .badLineHandle else none
  | .lineClr l => if l.toNat < 4 ∨ 3 + lineCount s.desc < l.toNat then some .badLineHandle else none
  | .runmode m => if m = 3 then some .illegalCommand else none
  | .rst | .brk | .accept | .raiseRst | .raiseBrk | .raiseEmu | .raiseNmi | .clrNmi | .reqNmi
  | .wr _ _ | .rd _ | .miblk _ => none

/-- Two states that differ at most in which of STOPPED and HALTED the core is in (R239). -/
def AlikeButForRest (s t : State) : Prop :=
  t = { s with runmode := t.runmode } ∧ (s.runmode = .running ↔ t.runmode = .running)

end Sys2Proof.Machine
end

