-- ==== Sys2Proof/WellFormed.lean ====
section
/-! DEFINITION. Well-formed commands: the operand is one the command's operation accepts on this variant.
The syntax already keeps every operand inside its field (R82). A command that is not well formed still has
a word and is still executed: it raises the fatal error of R261. -/

namespace Sys2Proof

/-- The operand checks of R261: the maskable range of R115 and R118 (code 1), the software range of R116
(code 3), the line handles `4 .. 3 + N` of R183 (code 5), and the modes of R245 (code 4). -/
def Instr.wellFormed (d : Config.Descriptor) : Instr → Bool
  | .raiseMi index => decide (4 ≤ index.toNat) && decide (index.toNat ≤ 63)
  | .clrMi index => decide (4 ≤ index.toNat) && decide (index.toNat ≤ 63)
  | .raiseSw index => decide (64 ≤ index.toNat)
  | .lineEn index _ => decide (4 ≤ index.toNat) && decide (index.toNat ≤ 3 + Machine.lineCount d)
  | .lineTry index => decide (4 ≤ index.toNat) && decide (index.toNat ≤ 3 + Machine.lineCount d)
  | .lineClr index => decide (4 ≤ index.toNat) && decide (index.toNat ≤ 3 + Machine.lineCount d)
  | .runmode mode => decide (mode ≠ 3#2)
  | .cycle | .rst | .brk | .accept | .raiseRst | .raiseBrk | .raiseEmu | .raiseNmi
  | .clrNmi | .reqNmi | .wr _ _ | .rd _ | .miblk _ => true

end Sys2Proof
end

