-- ==== Sys2Proof/Certificates/Slice0/Obligations.lean ====
section
/-! DEFINITION. The statements about the machine, rule by rule. Every one holds for every state, so for every
hardware-variant descriptor the state may carry; where a statement needs a descriptor construction admits, or
the environment's responses to be the empty ones, it says so in a hypothesis. -/

open Sys2Proof Sys2Proof.Machine Sys2Proof.Config

/-! ### Decoding and encoding -/

/-- R82, R84: the word of every command decodes to that command, whatever its operands. -/
def Obligations.DecodeOfEncode : Prop := ∀ i : Instr, decode (encode i) = .ok i

/-- R84: a word that decodes to a command is that command's word; no second word means it. -/
def Obligations.EncodeOfDecode : Prop := ∀ (w : CommandWord) (i : Instr), decode w = .ok i → encode i = w

/-- R84: a word selects a row iff `w & mask = match`, that row's command is what it decodes to, and the rows
are disjoint. -/
def Obligations.WordSelectsItsRow : Prop :=
  (∀ (w : CommandWord), ∀ r ∈ opcodeMap,
      (w &&& r.maskBits = r.matchBits ↔ ∃ i, decode w = .ok i ∧ i.mnemonic = r.mnemonic))
    ∧ (∀ (w : CommandWord), ∀ r ∈ opcodeMap, ∀ r' ∈ opcodeMap,
      w &&& r.maskBits = r.matchBits → w &&& r'.maskBits = r'.matchBits → r = r')

/-- R84: a few words written out from the encoding tables, one of each format and family. -/
def Obligations.SpecWordsDecode : Prop :=
  decode 0x01000000#32 = .ok .cycle ∧ decode 0x14000400#32 = .ok (.raiseMi 4)
    ∧ decode 0x15007F00#32 = .ok (.raiseSw 127) ∧ decode 0x20000501#32 = .ok (.lineEn 5 true)
    ∧ decode 0x21000500#32 = .ok (.lineTry 5) ∧ decode 0x30F01004#32 = .ok (.wr 0xF010 0x04)
    ∧ decode 0x31F01400#32 = .ok (.rd 0xF014) ∧ decode 0x40000001#32 = .ok (.runmode 1)
    ∧ decode 0x41000001#32 = .ok (.miblk true)

/-! ### Steps, fatal errors, responses -/

/-- R80: a presented word that decodes to a command is taken and that command is executed. With no word
presented a step changes nothing (the model's choice, log 3). -/
def Obligations.StepRunsTheDecodedCommand : Prop :=
  (∀ (s : State) (w : CommandWord) (rest : List CommandWord) (i : Instr),
      s.port = w :: rest → decode w = .ok i → step s = exec i { s with port := rest })
    ∧ (∀ s : State, s.port = [] → step s = .next s)

/-- R86: a word that matches no row raises `Fatal(4)` and changes no other state. -/
def Obligations.IllegalWordRaisesFatal4 : Prop :=
  ∀ (s : State) (w : CommandWord) (rest : List CommandWord),
    s.fatal = none → s.port = w :: rest →
    (∀ r ∈ opcodeMap, w &&& r.maskBits ≠ r.matchBits) →
    step s = .next { s with port := rest, fatal := some .illegalCommand }

/-- R260: once FATAL is not 0 every command and every later word is ignored and changes nothing. -/
def Obligations.FatalIsForEver : Prop :=
  ∀ s : State, s.fatal ≠ none →
    (∀ i, exec i s = .next s) ∧ step s = .next { s with port := s.port.tail }

/-- R261: with every response empty, a command ends with FATAL at the code of the one condition it meets,
and with FATAL still 0 if it meets none; in particular a well-formed command outside a cycle never fails. -/
def Obligations.FatalCodeIsTheViolation : Prop :=
  ∀ (i : Instr) (s : State), s.fatal = none → s.responses = [] →
    ∃ t, exec i s = .next t ∧ t.fatal = violation s i
      ∧ (s.incycle = false → (t.fatal = none ↔ i.wellFormed s.desc = true))

/-- R9, R10, R86, R260: an event's response is the next list of the environment's, and the empty list does
nothing. A word of a response that decodes to a command is executed as on the command port, to completion and
with responses of its own, before the words after it; an illegal word is `Fatal(4)`; once FATAL is not 0 the
rest of the response does nothing. (That the responses are one list, and that an exhausted list gives empty
responses, is the model's choice, log 4.) -/
def Obligations.ResponseIsExecutedInOrder : Prop :=
  (∀ s : State, s.responses = [] → respond s = s)
    ∧ (∀ (s : State) (ws : Response) (rest : List Response), s.responses = ws :: rest →
        respond s = runResponse respond ws { s with responses := rest })
    ∧ (∀ s : State, runResponse respond [] s = s)
    ∧ (∀ (s : State) (w : CommandWord) (ws : Response) (i : Instr), s.fatal = none → decode w = .ok i →
        ∃ t, exec i s = .next t ∧ runResponse respond (w :: ws) s = runResponse respond ws t)
    ∧ (∀ (s : State) (w : CommandWord) (ws : Response), s.fatal = none →
        (∀ r ∈ opcodeMap, w &&& r.maskBits ≠ r.matchBits) →
        runResponse respond (w :: ws) s = { s with fatal := some .illegalCommand })
    ∧ (∀ (s : State) (ws : Response), s.fatal ≠ none → runResponse respond ws s = s)

/-- R42: no step writes the hardware-variant descriptor, whatever the environment's responses are. -/
def Obligations.DescriptorNeverChanges : Prop :=
  ∀ s t : State, step s = .next t → t.desc = s.desc

/-- R43, with R23, R30, R33 and R39: every step keeps the block's invariant, whatever the command and the
environment's responses are. -/
def Obligations.EveryStepKeepsTheInvariant : Prop :=
  ∀ s t : State, s.Inv → step s = .next t → t.Inv

/-- The invariant holds at reset, for the descriptor of log 2. -/
def Obligations.ResetHoldsTheInvariant : Prop := State.reset.Inv

/-! ### Power-on and reset -/

/-- R45, R300: with empty responses construction of an admitted descriptor with good block bits ends in the
power-on column, having emitted `Initialise` and then `Reset` to every peripheral in ascending order. That `OSCCFG` holds the descriptor's
`OSCCFG_POR` with its unimplemented bits 7:4 cleared is the model's deduction from R30 (log 14). -/
def Obligations.PowerOnReachesItsColumn : Prop :=
  ∀ (d : Descriptor) (env : Environment), legalDescriptor d = true → env.responses = [] →
    (∀ p ∈ d.periphs, ∀ b, p.blkbit = some b → b ≤ 7 ∧ d.blkValid.getLsbD b = true) →
    ∃ t, powerOn d env = .next t
      ∧ (∀ l, isActive t l = decide (l = 0)) ∧ t.cnt = 1 ∧ t.len = 0 ∧ t.ie = 0 ∧ t.irq = 0
      ∧ t.miblk = false ∧ t.runmode = d.runmodePor ∧ t.blkcon = 0 ∧ t.fatal = none ∧ t.incycle = false
      ∧ t.osccfg = d.osccfgPor &&& 0x0F#8 ∧ t.adj = 0
      ∧ t.hscnt = 0 ∧ t.syscnt = 0 ∧ t.hssub = 0 ∧ t.hsout = 0 ∧ t.hsedge = 0
      ∧ t.lscnt = 0 ∧ t.lstc = 0 ∧ t.lscorr = .zero ∧ t.lssub = 0 ∧ t.lsout = 0 ∧ t.lsedge = 0
      ∧ t.lslen.toNat = lsNom d
      ∧ t.tickhs = false ∧ t.ticksys = false ∧ t.tickls = false ∧ t.rstls = false ∧ t.rsths = false
      ∧ t.rstlsreq = false ∧ t.rsthsreq = false ∧ t.desc = d
      ∧ t.events = (List.range d.periphs.length).map .initialise
          ++ (List.range d.periphs.length).map .resetPeriph

/-- R242: construction raises `Fatal(2)` iff a declared block bit is not in 0..7 or not in `BLK_VALID`,
whatever the environment's responses are. -/
def Obligations.BadBlockBitFailsConstruction : Prop :=
  ∀ (d : Descriptor) (env : Environment), legalDescriptor d = true →
    ∃ t, powerOn d env = .next t
      ∧ (t.fatal = some .badBlockBit
          ↔ ∃ p ∈ d.periphs, ∃ b, p.blkbit = some b ∧ ¬ (b ≤ 7 ∧ d.blkValid.getLsbD b = true))

/-- R45: the state right after reset, every element of the power-on column, with the values the default
descriptor of log 2 gives `RUNMODE`, `OSCCFG` and `LSLEN`. -/
def Obligations.ResetValues : Prop :=
  (∀ l, isActive State.reset l = decide (l = 0)) ∧ State.reset.cnt = 1 ∧ State.reset.len = 0
    ∧ State.reset.ie = 0 ∧ State.reset.irq = 0 ∧ State.reset.miblk = false
    ∧ State.reset.runmode = .running ∧ State.reset.blkcon = 0 ∧ State.reset.fatal = none
    ∧ State.reset.incycle = false ∧ State.reset.osccfg = 0 ∧ State.reset.adj = 0
    ∧ State.reset.hscnt = 0 ∧ State.reset.syscnt = 0 ∧ State.reset.hssub = 0 ∧ State.reset.hsout = 0
    ∧ State.reset.hsedge = 0
    ∧ State.reset.lscnt = 0 ∧ State.reset.lstc = 0 ∧ State.reset.lscorr = .zero ∧ State.reset.lssub = 0
    ∧ State.reset.lsout = 0 ∧ State.reset.lsedge = 0 ∧ State.reset.lslen = 4
    ∧ State.reset.tickhs = false ∧ State.reset.ticksys = false ∧ State.reset.tickls = false
    ∧ State.reset.rstls = false ∧ State.reset.rsths = false
    ∧ State.reset.rstlsreq = false ∧ State.reset.rsthsreq = false

/-- R130: whatever the peripherals' hooks do, a reset that no fatal error stopped leaves the reset line the
sole active line, `CNT` at 1, both shadow registers 0 and every line disabled. -/
def Obligations.ResetLeavesOnlyTheResetLine : Prop :=
  ∀ s : State, s.fatal = none →
    ∃ t, exec .rst s = .next t
      ∧ (t.fatal = none →
          (∀ l, isActive t l = decide (l = 0)) ∧ t.cnt = 1 ∧ t.ie = 0 ∧ t.irq = 0 ∧ t.len = 0)

/-- R130, R301: with empty responses RST emits `Reset` to every peripheral in ascending order, resets the
controller, and leaves everything else as it was. -/
def Obligations.ResetWritesTheControllerOnly : Prop :=
  ∀ s : State, s.fatal = none → s.responses = [] →
    exec .rst s = .next
      { s with
        act := 1, cnt := 1, ie := 0, irq := 0, len := 0,
        events := s.events ++ (List.range s.desc.periphs.length).map .resetPeriph }

/-- R121: BRK samples the ports; above level 1 it is RST, at level 0 or 1 it raises the break line. -/
def Obligations.BreakByExceptionLevel : Prop :=
  ∀ s : State, s.fatal = none →
    (1 < (sampled s).coreports.elevel.toNat → exec .brk s = exec .rst (sampled s))
      ∧ ((sampled s).coreports.elevel.toNat ≤ 1 →
          ∃ t, exec .brk s = .next t ∧ LineRaised 1 (sampled s) t)

/-! ### Raise, clear, request -/

/-- R110 to R114: the four raises without operand set their slot exactly once, count the transition, and
change nothing else. -/
def Obligations.RaisesSetTheirSlot : Prop :=
  ∀ s : State, s.fatal = none →
    (∃ t, exec .raiseRst s = .next t ∧ LineRaised 0 s t)
      ∧ (∃ t, exec .raiseBrk s = .next t ∧ LineRaised 1 s t)
      ∧ (∃ t, exec .raiseEmu s = .next t ∧ LineRaised 2 s t)
      ∧ (∃ t, exec .raiseNmi s = .next t ∧ LineRaised 3 s t)

/-- R115: RAISE.MI raises every line of 4..63, effective or not, and raises `Fatal(1)` outside. -/
def Obligations.RaiseMaskableByRange : Prop :=
  ∀ (s : State) (l : Line), s.fatal = none →
    (4 ≤ l.toNat ∧ l.toNat ≤ 63 → ∃ t, exec (.raiseMi l) s = .next t ∧ LineRaised l s t)
      ∧ (l.toNat < 4 ∨ 63 < l.toNat →
          exec (.raiseMi l) s = .next { s with fatal := some .badMaskableIndex })

/-- R116: RAISE.SW raises every line of 64..127, and raises `Fatal(3)` below. -/
def Obligations.RaiseSoftwareByRange : Prop :=
  ∀ (s : State) (l : Line), s.fatal = none →
    (64 ≤ l.toNat → ∃ t, exec (.raiseSw l) s = .next t ∧ LineRaised l s t)
      ∧ (l.toNat < 64 → exec (.raiseSw l) s = .next { s with fatal := some .badSoftwareIndex })

/-- R117: CLR.NMI deactivates line 3 and leaves its pending bit. -/
def Obligations.ClearNonmaskableClearsItsSlot : Prop :=
  ∀ s : State, s.fatal = none → ∃ t, exec .clrNmi s = .next t ∧ LineLowered 3 s t

/-- R118: CLR.MI deactivates a line of 4..63 and leaves its pending bit and flag; `Fatal(1)` outside. -/
def Obligations.ClearMaskableByRange : Prop :=
  ∀ (s : State) (l : Line), s.fatal = none →
    (4 ≤ l.toNat ∧ l.toNat ≤ 63 → ∃ t, exec (.clrMi l) s = .next t ∧ LineLowered l s t)
      ∧ (l.toNat < 4 ∨ 63 < l.toNat →
          exec (.clrMi l) s = .next { s with fatal := some .badMaskableIndex })

/-- R119: the second of two raises in a row changes nothing, for the six raises. -/
def Obligations.RaiseTwiceIsRaiseOnce : Prop :=
  ∀ (s t : State) (i : Instr),
    (i = .raiseRst ∨ i = .raiseBrk ∨ i = .raiseEmu ∨ i = .raiseNmi
      ∨ (∃ l, i = .raiseMi l) ∨ (∃ l, i = .raiseSw l)) →
    exec i s = .next t → exec i t = .next t

/-- R120: REQ.NMI sets `IRQ[0]` and, if `IE[0]` is set, activates line 3. -/
def Obligations.RequestNonmaskableByMask : Prop :=
  ∀ s : State, s.fatal = none →
    ∃ t, exec .reqNmi s = .next t
      ∧ (∀ k, k < 22 → t.irq.getLsbD k = (decide (k = 0) || s.irq.getLsbD k))
      ∧ (s.ie.getLsbD 0 = true → LineRaised 3 { s with irq := t.irq } t)
      ∧ (s.ie.getLsbD 0 = false → t = { s with irq := t.irq })

/-! ### The arbiter -/

/-- R140 to R148: with `CNT` not 0 the arbiter delivers the deliverable line that is first in the order of
R141, sampling the ports once: the pending bit if the line has one, the slot, the counter, the run mode,
the diagnostic for a nested software line, and `RaiseException` with the level of R147. -/
def Obligations.AcceptDeliversTheFirstDeliverable : Prop :=
  ∀ (s : State) (l : Line), s.fatal = none → s.cnt ≠ 0 → FirstDeliverable (sampled s) l →
    ∃ t, exec .accept s = .next t
      ∧ t = { sampled s with
          act := t.act, irq := t.irq, cnt := s.cnt - 1, runmode := .running,
          events := s.events
            ++ (if 64 ≤ l.toNat ∧ 1 < (sampled s).coreports.elevel.toNat
                then [.diag .swiNested l] else [])
            ++ [.raiseException (levelOf l) l] }
      ∧ (∀ m, isActive t m = (!decide (m = l) && isActive s m))
      ∧ (∀ k, k < 22 → t.irq.getLsbD k
          = (!decide (3 ≤ l.toNat ∧ l.toNat ≤ 3 + lineCount s.desc ∧ k = l.toNat - 3)
              && s.irq.getLsbD k))

/-- R149: if no line is deliverable ACCEPT changes nothing; only the sampling of the ports has happened. -/
def Obligations.AcceptDefersOtherwise : Prop :=
  ∀ s : State, s.fatal = none → s.cnt ≠ 0 → (∀ l, ¬ Deliverable (sampled s) l) →
    exec .accept s = .next (sampled s)

/-- R152: ACCEPT with `CNT = 0` is a no-op. -/
def Obligations.AcceptWithNothingActive : Prop :=
  ∀ s : State, s.fatal = none → s.cnt = 0 → exec .accept s = .next s

/-! ### Interrupt Lines -/

/-- R180, R183: LINE.EN writes the line's local flag and nothing else; `Fatal(5)` without a line. -/
def Obligations.LineEnableWritesItsFlag : Prop :=
  ∀ (s : State) (l : Line) (b : Bool), s.fatal = none →
    (4 ≤ l.toNat ∧ l.toNat ≤ 3 + lineCount s.desc →
      ∃ t, exec (.lineEn l b) s = .next t ∧ t = { s with len := t.len }
        ∧ ∀ k, k < 22 → t.len.getLsbD k = if k = l.toNat - 3 then b else s.len.getLsbD k)
      ∧ (l.toNat < 4 ∨ 3 + lineCount s.desc < l.toNat →
        exec (.lineEn l b) s = .next { s with fatal := some .badLineHandle })

/-- R181, R183: LINE.TRY sets the pending bit in every case and activates the line iff it is enabled;
`Fatal(5)` without a line. -/
def Obligations.LineTrySetsPending : Prop :=
  ∀ (s : State) (l : Line), s.fatal = none →
    (4 ≤ l.toNat ∧ l.toNat ≤ 3 + lineCount s.desc →
      ∃ t, exec (.lineTry l) s = .next t
        ∧ (∀ k, k < 22 → t.irq.getLsbD k = (decide (k = l.toNat - 3) || s.irq.getLsbD k))
        ∧ (s.len.getLsbD (l.toNat - 3) = true → LineRaised l { s with irq := t.irq } t)
        ∧ (s.len.getLsbD (l.toNat - 3) = false → t = { s with irq := t.irq }))
      ∧ (l.toNat < 4 ∨ 3 + lineCount s.desc < l.toNat →
        exec (.lineTry l) s = .next { s with fatal := some .badLineHandle })

/-- R182, R183: LINE.CLR clears the pending bit and deactivates the line whatever its flag is; `Fatal(5)`
without a line. -/
def Obligations.LineClearClearsPending : Prop :=
  ∀ (s : State) (l : Line), s.fatal = none →
    (4 ≤ l.toNat ∧ l.toNat ≤ 3 + lineCount s.desc →
      ∃ t, exec (.lineClr l) s = .next t
        ∧ (∀ k, k < 22 → t.irq.getLsbD k = (!decide (k = l.toNat - 3) && s.irq.getLsbD k))
        ∧ LineLowered l { s with irq := t.irq } t)
      ∧ (l.toNat < 4 ∨ 3 + lineCount s.desc < l.toNat →
        exec (.lineClr l) s = .next { s with fatal := some .badLineHandle })

/-- R184: how the triple (enabled, pending, active) of an effective line moves, column by column; every
other line's triple stays. -/
def Obligations.LineTripleMoves : Prop :=
  ∀ (s : State) (l : Line), s.fatal = none → 4 ≤ l.toNat → l.toNat ≤ 3 + lineCount s.desc →
    ∀ (i : Instr) (after : Bool × Bool × Bool → Bool × Bool × Bool),
      (i = .lineTry l ∧ after = (fun x => (x.1, true, x.2.2 || x.1)))
        ∨ (i = .lineClr l ∧ after = (fun x => (x.1, false, false)))
        ∨ (i = .lineEn l true ∧ after = (fun x => (true, x.2.1, x.2.2)))
        ∨ (i = .lineEn l false ∧ after = (fun x => (false, x.2.1, x.2.2)))
        ∨ (i = .raiseMi l ∧ after = (fun x => (x.1, x.2.1, true)))
        ∨ (i = .clrMi l ∧ after = (fun x => (x.1, x.2.1, false)))
        ∨ (i = .accept ∧ s.cnt ≠ 0 ∧ FirstDeliverable (sampled s) l
            ∧ after = (fun x => (x.1, false, false))) →
      ∃ t, exec i s = .next t ∧ lineTriple t l = after (lineTriple s l)
        ∧ ∀ m : Line, m ≠ l → 4 ≤ m.toNat → m.toNat ≤ 3 + lineCount s.desc →
            lineTriple t m = lineTriple s m

/-! ### The register bus -/

/-- R63, R73, R160, R161, R215, R241: RD returns the addressed byte of its register, little-endian by
offset, non-existent bits 0, and changes no state. -/
def Obligations.ReadReturnsTheAddressedByte : Prop :=
  ∀ (s : State) (addr : Addr) (reg : Reg) (k : Nat), s.fatal = none → legalDescriptor s.desc = true →
    AddressOf s.desc reg k addr →
    ∃ v : Byte, exec (.rd addr) s = .next { s with events := s.events ++ [.readData addr v] }
      ∧ ∀ j, j < 8 → v.getLsbD j =
          match reg with
          | .osccfg => decide (j < 4) && s.osccfg.getLsbD j
          | .lsrst => s.lsout.getLsbD j
          | .hsrst => s.hsout.getLsbD j
          | .adj => s.adj.getLsbD (8 * k + j)
          | .ie => decide (8 * k + j ≤ lineCount s.desc) && s.ie.getLsbD (8 * k + j)
          | .irq => decide (8 * k + j ≤ lineCount s.desc) && s.irq.getLsbD (8 * k + j)
          | .blkcon => s.blkcon.getLsbD j

/-- R72: a read or write at an address in no register's range emits `BusMiss`, returns no value and changes
no state. -/
def Obligations.MissedAccessChangesNothing : Prop :=
  ∀ (s : State) (addr : Addr) (data : Byte), s.fatal = none → Unmapped s.desc addr →
    exec (.rd addr) s = .next { s with events := s.events ++ [.busMiss addr] }
      ∧ exec (.wr addr data) s = .next { s with events := s.events ++ [.busMiss addr] }

/-- R162: a write of a byte of IE stores the merged value under `IE_VALID`, copies it into every `LEN`, and
raises or resets the non-maskable line by bit 0; nothing else changes. -/
def Obligations.MaskWriteEnablesLines : Prop :=
  ∀ (s : State) (addr : Addr) (k : Nat) (data : Byte), s.fatal = none → legalDescriptor s.desc = true →
    AddressOf s.desc .ie k addr →
    ∃ t, exec (.wr addr data) s = .next t
      ∧ (∀ j, j < 22 → t.ie.getLsbD j = writtenBit s.ie (ieValid s.desc) k data j)
      ∧ (∀ j, j < 22 → t.len.getLsbD j =
          if 1 ≤ j ∧ j ≤ lineCount s.desc then t.ie.getLsbD j else s.len.getLsbD j)
      ∧ (t.ie.getLsbD 0 = true → s.irq.getLsbD 0 = true → LineRaised 3 { s with ie := t.ie, len := t.len } t)
      ∧ (t.ie.getLsbD 0 = true → s.irq.getLsbD 0 = false → t = { s with ie := t.ie, len := t.len })
      ∧ (t.ie.getLsbD 0 = false → LineLowered 3 { s with ie := t.ie, len := t.len } t)

/-- R164: a write of a byte of IRQ stores the merged value under `IRQ_VALID` and re-evaluates every effective
line and the non-maskable line: a 1 activates iff enabled, a 0 deactivates. Nothing else changes, and the
counter still agrees with the bitmap. -/
def Obligations.PendingWriteReevaluatesLines : Prop :=
  ∀ (s : State) (addr : Addr) (k : Nat) (data : Byte), s.fatal = none → legalDescriptor s.desc = true →
    s.CounterAgrees → AddressOf s.desc .irq k addr →
    ∃ t, exec (.wr addr data) s = .next t
      ∧ t = { s with irq := t.irq, act := t.act, cnt := t.cnt } ∧ t.CounterAgrees
      ∧ (∀ j, j < 22 → t.irq.getLsbD j = writtenBit s.irq (irqValid s.desc) k data j)
      ∧ (∀ l : Line, isActive t l =
          if 4 ≤ l.toNat ∧ l.toNat ≤ 3 + lineCount s.desc then
            t.irq.getLsbD (l.toNat - 3) && (isActive s l || s.len.getLsbD (l.toNat - 3))
          else if l.toNat = 3 then t.irq.getLsbD 0 && (isActive s l || s.ie.getLsbD 0)
          else isActive s l)

/-- R210: a write of OSCCFG stores the four implemented bits and touches no counter. -/
def Obligations.OscillatorWriteStoresFourBits : Prop :=
  ∀ (s : State) (addr : Addr) (data : Byte), s.fatal = none → legalDescriptor s.desc = true →
    AddressOf s.desc .osccfg 0 addr →
    exec (.wr addr data) s = .next { s with osccfg := data &&& 0x0F#8 }

/-- R211: a write of LSRST, whatever the data, zeroes the low-speed domain at once, keeps ADJ, and requests a
pulse. -/
def Obligations.LowSpeedResetWrite : Prop :=
  ∀ (s : State) (addr : Addr) (data : Byte), s.fatal = none → legalDescriptor s.desc = true →
    AddressOf s.desc .lsrst 0 addr →
    ∃ n : BitVec 32, n.toNat = lsNom s.desc ∧ exec (.wr addr data) s = .next
      { s with
        lscnt := 0, lslen := n, lstc := 0, lscorr := .zero, lssub := 0, lsout := 0, lsedge := 0,
        rstlsreq := true }

/-- R212: a write of HSRST, whatever the data, zeroes the high-speed domain at once, leaves SYSCNT, and
requests a pulse. -/
def Obligations.HighSpeedResetWrite : Prop :=
  ∀ (s : State) (addr : Addr) (data : Byte), s.fatal = none → legalDescriptor s.desc = true →
    AddressOf s.desc .hsrst 0 addr →
    exec (.wr addr data) s = .next
      { s with hscnt := 0, hssub := 0, hsout := 0, hsedge := 0, rsthsreq := true }

/-- R213: a write of a byte of ADJ replaces that byte and keeps the other; no counter is touched. -/
def Obligations.AdjustWriteReplacesItsByte : Prop :=
  ∀ (s : State) (addr : Addr) (k : Nat) (data : Byte), s.fatal = none → legalDescriptor s.desc = true →
    AddressOf s.desc .adj k addr →
    ∃ v : BitVec 16, exec (.wr addr data) s = .next { s with adj := v }
      ∧ ∀ j, j < 16 → v.getLsbD j =
          if 8 * k ≤ j ∧ j < 8 * k + 8 then data.getLsbD (j - 8 * k) else s.adj.getLsbD j

/-- R240: with empty responses a write of BLKCON stores the valid bits and then emits `Uninitialise` or
`Initialise`, in ascending order, to the peripherals whose bit changed. -/
def Obligations.BlockControlWriteEmitsHooks : Prop :=
  ∀ (s : State) (addr : Addr) (data : Byte), s.fatal = none → s.responses = [] →
    legalDescriptor s.desc = true → AddressOf s.desc .blkcon 0 addr →
    exec (.wr addr data) s = .next
      { s with
        blkcon := data &&& s.desc.blkValid,
        events := s.events ++ blockHooks s.desc s.blkcon (data &&& s.desc.blkValid) }

/-- R160: writing every byte of IE from a value and reading them back yields that value under `IE_VALID`. -/
def Obligations.MaskRoundTrip : Prop :=
  ∀ (s : State) (v : Nat), s.fatal = none → legalDescriptor s.desc = true →
    ∃ t, execAll (expand s.desc (.wrie v)) s = .next t
      ∧ t.ie = BitVec.ofNat 22 v &&& ieValid s.desc
      ∧ ∀ k, k < shadowBytes s.desc →
          exec (.rd (s.desc.aIe + BitVec.ofNat 16 k)) t = .next
            { t with events := t.events
                ++ [.readData (s.desc.aIe + BitVec.ofNat 16 k)
                      (BitVec.ofNat 8 ((BitVec.ofNat 22 v &&& ieValid s.desc).toNat / 2 ^ (8 * k)))] }

/-- R64: a write changes nothing of what is read at any address but the one written. (With empty responses,
so that no hook writes another register, and in a state whose IRQ holds no bit outside `IRQ_VALID`, since
such a bit, set by LINE.TRY, is dropped by any write of IRQ.) -/
def Obligations.WriteChangesOnlyItsByte : Prop :=
  ∀ (s t : State) (addr other : Addr) (data : Byte), s.Inv → s.responses = [] →
    s.irq &&& ~~~irqValid s.desc = 0 → other ≠ addr →
    exec (.wr addr data) s = .next t → busRead t other = busRead s other

/-! ### The clock generator -/

/-- R201, R202, R203, R208: the high-speed and system half of a clock advance. -/
def Obligations.HighSpeedAdvance : Prop :=
  ∀ s : State, s.CycleFlagsClear →
    ∀ tick wrap : Bool,
      (tick = true ↔ 2 ^ min (s.osccfg.toNat % 8) 6 ≤ s.hscnt.toNat + 1) →
      (wrap = true ↔ tick = true ∧ s.rsthsreq = false ∧ s.hssub.toNat = 127) →
      (clockAdvance s).rsths = s.rsthsreq ∧ (clockAdvance s).rsthsreq = false
        ∧ (clockAdvance s).tickhs = tick
        ∧ (clockAdvance s).hscnt.toNat = (if tick then 0 else s.hscnt.toNat + 1)
        ∧ (clockAdvance s).ticksys = (tick && decide (s.syscnt = 1))
        ∧ (clockAdvance s).syscnt.toNat = (if tick then 1 - s.syscnt.toNat else s.syscnt.toNat)
        ∧ (clockAdvance s).hssub.toNat
            = (if tick ∧ s.rsthsreq = false then (s.hssub.toNat + 1) % 128 else s.hssub.toNat)
        ∧ (clockAdvance s).hsout = (if wrap then s.hsout + 1 else s.hsout)
        ∧ (∀ j, j < 8 → (clockAdvance s).hsedge.getLsbD j
            = (wrap && s.hsout.getLsbD j && !(s.hsout + 1).getLsbD j))

/-- R204, R206, R207, R208: the low-speed half of a clock advance while the domain is enabled. -/
def Obligations.LowSpeedAdvance : Prop :=
  ∀ s : State, legalDescriptor s.desc = true → s.CountersInRange → s.CycleFlagsClear →
    s.osccfg.getLsbD 3 = true →
    ∀ (fires tick wrap : Bool) (corr : Int),
      (fires = true ↔ thresholdOf s.desc.cps s.adj ≠ 0
        ∧ (thresholdOf s.desc.cps s.adj).natAbs ≤ s.lstc.toNat + 1) →
      (tick = true ↔ s.lslen.toNat = s.lscnt.toNat + 1) →
      (wrap = true ↔ tick = true ∧ s.rstlsreq = false ∧ s.lssub.toNat + 1 = s.desc.lsSubsteps) →
      corr = (if fires then (if 0 < thresholdOf s.desc.cps s.adj then -1 else 1)
              else correctionCycles s.lscorr) →
      (clockAdvance s).rstls = s.rstlsreq ∧ (clockAdvance s).rstlsreq = false
        ∧ (clockAdvance s).tickls = tick
        ∧ (clockAdvance s).lscnt.toNat = (if tick then 0 else s.lscnt.toNat + 1)
        ∧ ((clockAdvance s).lslen.toNat : Int)
            = (if tick then (lsNom s.desc : Int) + corr else (s.lslen.toNat : Int))
        ∧ correctionCycles (clockAdvance s).lscorr = (if tick then 0 else corr)
        ∧ (fires = true ∨ thresholdOf s.desc.cps s.adj = 0 → (clockAdvance s).lstc = 0)
        ∧ (fires = false → thresholdOf s.desc.cps s.adj ≠ 0 →
            (clockAdvance s).lstc.toNat = s.lstc.toNat + 1)
        ∧ (clockAdvance s).lssub.toNat
            = (if wrap then 0 else if tick ∧ s.rstlsreq = false then s.lssub.toNat + 1 else s.lssub.toNat)
        ∧ (clockAdvance s).lsout = (if wrap then s.lsout + 1 else s.lsout)
        ∧ (∀ j, j < 8 → (clockAdvance s).lsedge.getLsbD j
            = (wrap && s.lsout.getLsbD j && !(s.lsout + 1).getLsbD j))

/-- R218, R208: while `LSEN = 0` a clock advance leaves the low-speed domain's counters and output as they are
and gives no low-speed tick, and a requested reset still gives its pulse. -/
def Obligations.LowSpeedHoldsWhenDisabled : Prop :=
  ∀ s : State, s.osccfg.getLsbD 3 = false →
    (clockAdvance s).lscnt = s.lscnt ∧ (clockAdvance s).lslen = s.lslen
      ∧ (clockAdvance s).lstc = s.lstc ∧ (clockAdvance s).lscorr = s.lscorr
      ∧ (clockAdvance s).lssub = s.lssub ∧ (clockAdvance s).lsout = s.lsout
      ∧ (clockAdvance s).tickls = s.tickls ∧ (clockAdvance s).lsedge = s.lsedge
      ∧ (clockAdvance s).rstls = s.rstlsreq ∧ (clockAdvance s).rstlsreq = false

/-- R205: the threshold is the formula `16384 * (1 + 2097152/adj) / CPS` over the rationals, truncated
toward zero, and 0 for `adj = 0`. -/
def Obligations.ThresholdIsTheTruncatedFormula : Prop :=
  ∀ (cps : Nat) (adj : BitVec 16), 0 < cps →
    (adj = 0 → thresholdOf cps adj = 0)
      ∧ (adj ≠ 0 → ∀ q : ℚ, q = 16384 * (1 + 2097152 / (adj.toInt : ℚ)) / (cps : ℚ) →
          thresholdOf cps adj = (if 0 ≤ q then ⌊q⌋ else ⌈q⌉)
            ∧ (0 < thresholdOf cps adj ↔ 0 < adj.toInt ∧ 1 ≤ q)
            ∧ (thresholdOf cps adj < 0 ↔ adj.toInt < 0 ∧ q ≤ -1))

/-- R214 (6): with `CPS >= 32768` the threshold's magnitude is at most 1048576. -/
def Obligations.ThresholdIsBounded : Prop :=
  ∀ (cps : Nat) (adj : BitVec 16), 32768 ≤ cps → (thresholdOf cps adj).natAbs ≤ 1048576

/-- R216: with constant registers the next `n` cycles hold one high-speed tick per `HSDIV` cycles and one
system tick per two high-speed ticks, from any phase. -/
def Obligations.TickRates : Prop :=
  ∀ (s : State) (n : Nat), s.CycleFlagsClear → s.hscnt.toNat < hsdiv s →
    hsTicks n s = (s.hscnt.toNat + n) / hsdiv s
      ∧ sysTicks n s = (s.syscnt.toNat + hsTicks n s) / 2

/-! ### The tick scheduler -/

/-- R231: CYCLE while a cycle is in progress raises `Fatal(4)` and nothing else. -/
def Obligations.NestedCycleIsFatal : Prop :=
  ∀ s : State, s.fatal = none → s.incycle = true →
    exec .cycle s = .next { s with fatal := some .illegalCommand }

/-- R230, R232 to R236: with empty responses a cycle advances the clocks, dispatches by the table of R233,
lets the arbiter deliver if `CNT` is not 0, emits `TickAfterInterrupts` to every peripheral, emits `Step` iff
running on a system tick, and clears the per-cycle flags. The clock advance writes no state but that of R31 to
R38, ADJ and OSCCFG excepted (R190, R200). -/
def Obligations.CycleRunsItsFiveSteps : Prop :=
  ∀ (s c : State), s.fatal = none → s.incycle = false → s.responses = [] →
    c = clockAdvance { s with incycle := true } →
    SameButClock { s with incycle := true } c
      ∧ ∃ a, exec .accept { c with events := s.events ++ dispatched c } = .next a
      ∧ exec .cycle s = .next
        { a with
          events := a.events ++ (List.range s.desc.periphs.length).map .tickAfterInterrupts
            ++ (if a.runmode = .running ∧ c.ticksys = true then [.step] else []),
          tickhs := false, ticksys := false, tickls := false, rstls := false, rsths := false,
          hsedge := 0, lsedge := 0, incycle := false }

/-- R236: whatever the environment's responses are, a cycle that no fatal error ended leaves every per-cycle
flag at 0 and no cycle in progress. -/
def Obligations.CycleClearsItsFlags : Prop :=
  ∀ s : State, s.fatal = none → s.incycle = false →
    ∃ t, exec .cycle s = .next t
      ∧ (t.fatal = none → t.incycle = false ∧ t.CycleFlagsClear)

/-- R239, R318: with empty responses a cycle in STOPPED or HALTED with no deliverable line stays in that mode
and emits neither `Step` nor `RaiseException`, while the counters and outputs of all domains advance as in
CLKADV, which does not look at the mode (R209). -/
def Obligations.SleepWithNothingDeliverable : Prop :=
  ∀ s : State, s.fatal = none → s.incycle = false → s.responses = [] → s.runmode ≠ .running →
    (∀ l, ¬ Deliverable (sampled s) l) →
    ∃ t, exec .cycle s = .next t ∧ t.runmode = s.runmode
      ∧ t.hscnt = (clockAdvance s).hscnt ∧ t.syscnt = (clockAdvance s).syscnt
      ∧ t.hssub = (clockAdvance s).hssub ∧ t.hsout = (clockAdvance s).hsout
      ∧ t.lscnt = (clockAdvance s).lscnt ∧ t.lslen = (clockAdvance s).lslen
      ∧ t.lstc = (clockAdvance s).lstc ∧ t.lscorr = (clockAdvance s).lscorr
      ∧ t.lssub = (clockAdvance s).lssub ∧ t.lsout = (clockAdvance s).lsout
      ∧ (∀ mode : RunMode, clockAdvance { s with runmode := mode } = { clockAdvance s with runmode := mode })
      ∧ ∃ es, t.events = s.events ++ es ∧ .step ∉ es ∧ ∀ level l, .raiseException level l ∉ es

/-- R239: STOPPED and HALTED behave identically inside the block: two states that differ only in which of
the two the core is in stay so under every command, whatever the environment's responses are. -/
def Obligations.StoppedAndHaltedAreAlike : Prop :=
  ∀ (i : Instr) (s s' : State), AlikeButForRest s s' →
    ∃ t t', exec i s = .next t ∧ exec i s' = .next t' ∧ AlikeButForRest t t'

/-- R245: RUNMODE stores the mode 0, 1 or 2, and raises `Fatal(4)` for 3, which is never stored. -/
def Obligations.RunmodeStoresItsMode : Prop :=
  ∀ s : State, s.fatal = none →
    exec (.runmode 0) s = .next { s with runmode := .stopped }
      ∧ exec (.runmode 1) s = .next { s with runmode := .halted }
      ∧ exec (.runmode 2) s = .next { s with runmode := .running }
      ∧ exec (.runmode 3) s = .next { s with fatal := some .illegalCommand }

/-- R246: MIBLK stores its flag and nothing else. -/
def Obligations.MiblkStoresItsFlag : Prop :=
  ∀ (s : State) (b : Bool), s.fatal = none → exec (.miblk b) s = .next { s with miblk := b }

/-! ### Codes, responses inside an operation, reading back -/

/-- R93, with R40, R29 and R147: the numeric codes of the enumerations. -/
def Obligations.NumericCodes : Prop :=
  fatalCode .badMaskableIndex = 1 ∧ fatalCode .badBlockBit = 2 ∧ fatalCode .badSoftwareIndex = 3
    ∧ fatalCode .illegalCommand = 4 ∧ fatalCode .badLineHandle = 5
    ∧ (∀ s : State, fatalValue s = 0 ↔ s.fatal = none)
    ∧ (∀ s c, s.fatal = some c → fatalValue s = fatalCode c)
    ∧ diagCode .swiNested = 1
    ∧ runmodeCode .stopped = 0 ∧ runmodeCode .halted = 1 ∧ runmodeCode .running = 2
    ∧ (∀ m : BitVec 2, m ≠ 3 → (modeOf m).map runmodeCode = some m) ∧ modeOf 3 = none
    ∧ (∀ l : Line, exceptionLevel l = levelOf l)

/-- R9, R231, R260, R300: a fatal error in a response ends the operation that emitted the event where it stands,
keeping what was written; with none, RST and construction end with the controller reset, which wipes what the
hooks raised, and a write of BLKCON with the last hook. A CYCLE in a response while a cycle is in progress is such an error, and ends the response. This holds
for every list of responses. -/
def Obligations.FatalInAResponseEndsTheOperation : Prop :=
  (∀ s : State, s.fatal = none →
      (∀ k, k < s.desc.periphs.length → FirstFatalAt resetEvent k s →
          exec .rst s = .next (afterEvents resetEvent (k + 1) s))
        ∧ (NoFatalThrough resetEvent s.desc.periphs.length s →
          exec .rst s = .next
            { afterEvents resetEvent s.desc.periphs.length s with act := 1, cnt := 1, ie := 0, irq := 0, len := 0 }))
    ∧ (∀ (s w : State) (addr : Addr) (data : Byte) (ev : Nat → State → Option Event),
        s.fatal = none → legalDescriptor s.desc = true → AddressOf s.desc .blkcon 0 addr →
        w = { s with blkcon := data &&& s.desc.blkValid } →
        ev = blockEvent s.desc s.blkcon (data &&& s.desc.blkValid) →
        (∀ k, k < s.desc.periphs.length → FirstFatalAt ev k w →
          exec (.wr addr data) s = .next (afterEvents ev (k + 1) w))
        ∧ (NoFatalThrough ev s.desc.periphs.length w →
          exec (.wr addr data) s = .next (afterEvents ev s.desc.periphs.length w)))
    ∧ (∀ (d : Descriptor) (env : Environment) (u v : State), legalDescriptor d = true →
        (∀ p ∈ d.periphs, ∀ b, p.blkbit = some b → b ≤ 7 ∧ d.blkValid.getLsbD b = true) →
        u = underConstruction d env → v = afterEvents initialiseEvent d.periphs.length u →
        (u.act = 0 ∧ u.cnt = 0 ∧ u.fatal = none ∧ u.incycle = false ∧ u.desc = d ∧ u.events = []
            ∧ u.responses = env.responses ∧ u.coreports = env.coreports ∧ u.portsamples = env.portsamples)
        ∧ (∀ k, k < d.periphs.length → FirstFatalAt initialiseEvent k u →
          powerOn d env = .next (afterEvents initialiseEvent (k + 1) u))
        ∧ (NoFatalThrough initialiseEvent d.periphs.length u →
          (∀ k, k < d.periphs.length → FirstFatalAt resetEvent k v →
            powerOn d env = .next (afterEvents resetEvent (k + 1) v))
          ∧ (NoFatalThrough resetEvent d.periphs.length v →
            powerOn d env = .next
              { afterEvents resetEvent d.periphs.length v with act := 1, cnt := 1, ie := 0, irq := 0, len := 0 })))
    ∧ (∀ (s : State) (w : CommandWord) (ws : Response), s.fatal = none → s.incycle = true →
        decode w = .ok .cycle → runResponse respond (w :: ws) s = { s with fatal := some .illegalCommand })

/-- R230, R9, R231, R260: CYCLE with any responses. A fatal error in the response to an event of step 2, of
step 3 or to `Step` ends the cycle where it stands, with INCYCLE and the per-cycle flags as they are; otherwise
each step starts from what the responses of the one before left, and step 5 clears the flags. Step 1 writes
the state of R31 to R38, ADJ and OSCCFG excepted, and takes no response (R190, R200). -/
def Obligations.CycleTakesItsResponses : Prop :=
  ∀ (s c : State), s.fatal = none → s.incycle = false → c = clockAdvance { s with incycle := true } →
    SameButClock { s with incycle := true } c
      ∧ (∀ k, k < s.desc.periphs.length → FirstFatalAt (dispatchOf s.desc) k c →
        exec .cycle s = .next (afterEvents (dispatchOf s.desc) (k + 1) c))
      ∧ (NoFatalThrough (dispatchOf s.desc) s.desc.periphs.length c →
          ∃ a, exec .accept (afterEvents (dispatchOf s.desc) s.desc.periphs.length c) = .next a
            ∧ (∀ k, k < s.desc.periphs.length → FirstFatalAt afterInterruptsEvent k a →
                exec .cycle s = .next (afterEvents afterInterruptsEvent (k + 1) a))
            ∧ (NoFatalThrough afterInterruptsEvent s.desc.periphs.length a →
                ∀ e u, e = afterEvents afterInterruptsEvent s.desc.periphs.length a →
                  u = (if e.runmode = .running ∧ e.ticksys = true then respond (emit .step e) else e) →
                  exec .cycle s = .next
                    (if u.fatal = none then
                      { u with
                        tickhs := false, ticksys := false, tickls := false, rstls := false, rsths := false,
                        hsedge := 0, lsedge := 0, incycle := false }
                    else u)))

/-- R64, R62, R74 with the read rules R160, R161, R215 and R241: what is read at the addressed byte after a
write, with empty responses. OSCCFG, IE, IRQ and BLKCON keep the implemented or valid bits, ADJ all of them, and
LSRST and HSRST read 0 because the write zeroes the domain's output. -/
def Obligations.WriteIsReadBack : Prop :=
  ∀ (s : State) (addr : Addr) (data : Byte) (reg : Reg) (k : Nat), s.fatal = none → s.responses = [] →
    legalDescriptor s.desc = true → AddressOf s.desc reg k addr →
    ∃ t v, exec (.wr addr data) s = .next t ∧ busRead t addr = some v
      ∧ ∀ j, j < 8 → v.getLsbD j =
          match reg with
          | .osccfg => decide (j < 4) && data.getLsbD j
          | .lsrst => false
          | .hsrst => false
          | .adj => data.getLsbD j
          | .ie => (ieValid s.desc).getLsbD (8 * k + j) && data.getLsbD j
          | .irq => (irqValid s.desc).getLsbD (8 * k + j) && data.getLsbD j
          | .blkcon => s.desc.blkValid.getLsbD j && data.getLsbD j
end

