-- ==== Sys2Proof/Laws/State.lean ====
section
/-! SUPPORT. One lemma per field per named update of the state: the fields an update leaves alone. -/

namespace Sys2Proof.Machine

variable (s : State)

/-! ### emit -/

@[simp] theorem emit_act (e : Event) : (emit e s).act = s.act := rfl
@[simp] theorem emit_cnt (e : Event) : (emit e s).cnt = s.cnt := rfl
@[simp] theorem emit_len (e : Event) : (emit e s).len = s.len := rfl
@[simp] theorem emit_ie (e : Event) : (emit e s).ie = s.ie := rfl
@[simp] theorem emit_irq (e : Event) : (emit e s).irq = s.irq := rfl
@[simp] theorem emit_miblk (e : Event) : (emit e s).miblk = s.miblk := rfl
@[simp] theorem emit_runmode (e : Event) : (emit e s).runmode = s.runmode := rfl
@[simp] theorem emit_blkcon (e : Event) : (emit e s).blkcon = s.blkcon := rfl
@[simp] theorem emit_fatal (e : Event) : (emit e s).fatal = s.fatal := rfl
@[simp] theorem emit_incycle (e : Event) : (emit e s).incycle = s.incycle := rfl
@[simp] theorem emit_osccfg (e : Event) : (emit e s).osccfg = s.osccfg := rfl
@[simp] theorem emit_adj (e : Event) : (emit e s).adj = s.adj := rfl
@[simp] theorem emit_hscnt (e : Event) : (emit e s).hscnt = s.hscnt := rfl
@[simp] theorem emit_syscnt (e : Event) : (emit e s).syscnt = s.syscnt := rfl
@[simp] theorem emit_hssub (e : Event) : (emit e s).hssub = s.hssub := rfl
@[simp] theorem emit_hsout (e : Event) : (emit e s).hsout = s.hsout := rfl
@[simp] theorem emit_hsedge (e : Event) : (emit e s).hsedge = s.hsedge := rfl
@[simp] theorem emit_lscnt (e : Event) : (emit e s).lscnt = s.lscnt := rfl
@[simp] theorem emit_lslen (e : Event) : (emit e s).lslen = s.lslen := rfl
@[simp] theorem emit_lstc (e : Event) : (emit e s).lstc = s.lstc := rfl
@[simp] theorem emit_lscorr (e : Event) : (emit e s).lscorr = s.lscorr := rfl
@[simp] theorem emit_lssub (e : Event) : (emit e s).lssub = s.lssub := rfl
@[simp] theorem emit_lsout (e : Event) : (emit e s).lsout = s.lsout := rfl
@[simp] theorem emit_lsedge (e : Event) : (emit e s).lsedge = s.lsedge := rfl
@[simp] theorem emit_tickhs (e : Event) : (emit e s).tickhs = s.tickhs := rfl
@[simp] theorem emit_ticksys (e : Event) : (emit e s).ticksys = s.ticksys := rfl
@[simp] theorem emit_tickls (e : Event) : (emit e s).tickls = s.tickls := rfl
@[simp] theorem emit_rstls (e : Event) : (emit e s).rstls = s.rstls := rfl
@[simp] theorem emit_rsths (e : Event) : (emit e s).rsths = s.rsths := rfl
@[simp] theorem emit_rstlsreq (e : Event) : (emit e s).rstlsreq = s.rstlsreq := rfl
@[simp] theorem emit_rsthsreq (e : Event) : (emit e s).rsthsreq = s.rsthsreq := rfl
@[simp] theorem emit_desc (e : Event) : (emit e s).desc = s.desc := rfl
@[simp] theorem emit_port (e : Event) : (emit e s).port = s.port := rfl
@[simp] theorem emit_responses (e : Event) : (emit e s).responses = s.responses := rfl
@[simp] theorem emit_coreports (e : Event) : (emit e s).coreports = s.coreports := rfl
@[simp] theorem emit_portsamples (e : Event) : (emit e s).portsamples = s.portsamples := rfl

/-! ### raiseFatal -/

@[simp] theorem raiseFatal_act (c : FatalCode) : (raiseFatal c s).act = s.act := rfl
@[simp] theorem raiseFatal_cnt (c : FatalCode) : (raiseFatal c s).cnt = s.cnt := rfl
@[simp] theorem raiseFatal_len (c : FatalCode) : (raiseFatal c s).len = s.len := rfl
@[simp] theorem raiseFatal_ie (c : FatalCode) : (raiseFatal c s).ie = s.ie := rfl
@[simp] theorem raiseFatal_irq (c : FatalCode) : (raiseFatal c s).irq = s.irq := rfl
@[simp] theorem raiseFatal_miblk (c : FatalCode) : (raiseFatal c s).miblk = s.miblk := rfl
@[simp] theorem raiseFatal_runmode (c : FatalCode) : (raiseFatal c s).runmode = s.runmode := rfl
@[simp] theorem raiseFatal_blkcon (c : FatalCode) : (raiseFatal c s).blkcon = s.blkcon := rfl
@[simp] theorem raiseFatal_incycle (c : FatalCode) : (raiseFatal c s).incycle = s.incycle := rfl
@[simp] theorem raiseFatal_osccfg (c : FatalCode) : (raiseFatal c s).osccfg = s.osccfg := rfl
@[simp] theorem raiseFatal_adj (c : FatalCode) : (raiseFatal c s).adj = s.adj := rfl
@[simp] theorem raiseFatal_hscnt (c : FatalCode) : (raiseFatal c s).hscnt = s.hscnt := rfl
@[simp] theorem raiseFatal_syscnt (c : FatalCode) : (raiseFatal c s).syscnt = s.syscnt := rfl
@[simp] theorem raiseFatal_hssub (c : FatalCode) : (raiseFatal c s).hssub = s.hssub := rfl
@[simp] theorem raiseFatal_hsout (c : FatalCode) : (raiseFatal c s).hsout = s.hsout := rfl
@[simp] theorem raiseFatal_hsedge (c : FatalCode) : (raiseFatal c s).hsedge = s.hsedge := rfl
@[simp] theorem raiseFatal_lscnt (c : FatalCode) : (raiseFatal c s).lscnt = s.lscnt := rfl
@[simp] theorem raiseFatal_lslen (c : FatalCode) : (raiseFatal c s).lslen = s.lslen := rfl
@[simp] theorem raiseFatal_lstc (c : FatalCode) : (raiseFatal c s).lstc = s.lstc := rfl
@[simp] theorem raiseFatal_lscorr (c : FatalCode) : (raiseFatal c s).lscorr = s.lscorr := rfl
@[simp] theorem raiseFatal_lssub (c : FatalCode) : (raiseFatal c s).lssub = s.lssub := rfl
@[simp] theorem raiseFatal_lsout (c : FatalCode) : (raiseFatal c s).lsout = s.lsout := rfl
@[simp] theorem raiseFatal_lsedge (c : FatalCode) : (raiseFatal c s).lsedge = s.lsedge := rfl
@[simp] theorem raiseFatal_tickhs (c : FatalCode) : (raiseFatal c s).tickhs = s.tickhs := rfl
@[simp] theorem raiseFatal_ticksys (c : FatalCode) : (raiseFatal c s).ticksys = s.ticksys := rfl
@[simp] theorem raiseFatal_tickls (c : FatalCode) : (raiseFatal c s).tickls = s.tickls := rfl
@[simp] theorem raiseFatal_rstls (c : FatalCode) : (raiseFatal c s).rstls = s.rstls := rfl
@[simp] theorem raiseFatal_rsths (c : FatalCode) : (raiseFatal c s).rsths = s.rsths := rfl
@[simp] theorem raiseFatal_rstlsreq (c : FatalCode) : (raiseFatal c s).rstlsreq = s.rstlsreq := rfl
@[simp] theorem raiseFatal_rsthsreq (c : FatalCode) : (raiseFatal c s).rsthsreq = s.rsthsreq := rfl
@[simp] theorem raiseFatal_desc (c : FatalCode) : (raiseFatal c s).desc = s.desc := rfl
@[simp] theorem raiseFatal_port (c : FatalCode) : (raiseFatal c s).port = s.port := rfl
@[simp] theorem raiseFatal_responses (c : FatalCode) : (raiseFatal c s).responses = s.responses := rfl
@[simp] theorem raiseFatal_coreports (c : FatalCode) : (raiseFatal c s).coreports = s.coreports := rfl
@[simp] theorem raiseFatal_portsamples (c : FatalCode) : (raiseFatal c s).portsamples = s.portsamples := rfl
@[simp] theorem raiseFatal_events (c : FatalCode) : (raiseFatal c s).events = s.events := rfl

/-! ### setPending -/

@[simp] theorem setPending_act (k : Nat) (b : Bool) : (setPending k b s).act = s.act := rfl
@[simp] theorem setPending_cnt (k : Nat) (b : Bool) : (setPending k b s).cnt = s.cnt := rfl
@[simp] theorem setPending_len (k : Nat) (b : Bool) : (setPending k b s).len = s.len := rfl
@[simp] theorem setPending_ie (k : Nat) (b : Bool) : (setPending k b s).ie = s.ie := rfl
@[simp] theorem setPending_miblk (k : Nat) (b : Bool) : (setPending k b s).miblk = s.miblk := rfl
@[simp] theorem setPending_runmode (k : Nat) (b : Bool) : (setPending k b s).runmode = s.runmode := rfl
@[simp] theorem setPending_blkcon (k : Nat) (b : Bool) : (setPending k b s).blkcon = s.blkcon := rfl
@[simp] theorem setPending_fatal (k : Nat) (b : Bool) : (setPending k b s).fatal = s.fatal := rfl
@[simp] theorem setPending_incycle (k : Nat) (b : Bool) : (setPending k b s).incycle = s.incycle := rfl
@[simp] theorem setPending_osccfg (k : Nat) (b : Bool) : (setPending k b s).osccfg = s.osccfg := rfl
@[simp] theorem setPending_adj (k : Nat) (b : Bool) : (setPending k b s).adj = s.adj := rfl
@[simp] theorem setPending_hscnt (k : Nat) (b : Bool) : (setPending k b s).hscnt = s.hscnt := rfl
@[simp] theorem setPending_syscnt (k : Nat) (b : Bool) : (setPending k b s).syscnt = s.syscnt := rfl
@[simp] theorem setPending_hssub (k : Nat) (b : Bool) : (setPending k b s).hssub = s.hssub := rfl
@[simp] theorem setPending_hsout (k : Nat) (b : Bool) : (setPending k b s).hsout = s.hsout := rfl
@[simp] theorem setPending_hsedge (k : Nat) (b : Bool) : (setPending k b s).hsedge = s.hsedge := rfl
@[simp] theorem setPending_lscnt (k : Nat) (b : Bool) : (setPending k b s).lscnt = s.lscnt := rfl
@[simp] theorem setPending_lslen (k : Nat) (b : Bool) : (setPending k b s).lslen = s.lslen := rfl
@[simp] theorem setPending_lstc (k : Nat) (b : Bool) : (setPending k b s).lstc = s.lstc := rfl
@[simp] theorem setPending_lscorr (k : Nat) (b : Bool) : (setPending k b s).lscorr = s.lscorr := rfl
@[simp] theorem setPending_lssub (k : Nat) (b : Bool) : (setPending k b s).lssub = s.lssub := rfl
@[simp] theorem setPending_lsout (k : Nat) (b : Bool) : (setPending k b s).lsout = s.lsout := rfl
@[simp] theorem setPending_lsedge (k : Nat) (b : Bool) : (setPending k b s).lsedge = s.lsedge := rfl
@[simp] theorem setPending_tickhs (k : Nat) (b : Bool) : (setPending k b s).tickhs = s.tickhs := rfl
@[simp] theorem setPending_ticksys (k : Nat) (b : Bool) : (setPending k b s).ticksys = s.ticksys := rfl
@[simp] theorem setPending_tickls (k : Nat) (b : Bool) : (setPending k b s).tickls = s.tickls := rfl
@[simp] theorem setPending_rstls (k : Nat) (b : Bool) : (setPending k b s).rstls = s.rstls := rfl
@[simp] theorem setPending_rsths (k : Nat) (b : Bool) : (setPending k b s).rsths = s.rsths := rfl
@[simp] theorem setPending_rstlsreq (k : Nat) (b : Bool) : (setPending k b s).rstlsreq = s.rstlsreq := rfl
@[simp] theorem setPending_rsthsreq (k : Nat) (b : Bool) : (setPending k b s).rsthsreq = s.rsthsreq := rfl
@[simp] theorem setPending_desc (k : Nat) (b : Bool) : (setPending k b s).desc = s.desc := rfl
@[simp] theorem setPending_port (k : Nat) (b : Bool) : (setPending k b s).port = s.port := rfl
@[simp] theorem setPending_responses (k : Nat) (b : Bool) : (setPending k b s).responses = s.responses := rfl
@[simp] theorem setPending_coreports (k : Nat) (b : Bool) : (setPending k b s).coreports = s.coreports := rfl
@[simp] theorem setPending_portsamples (k : Nat) (b : Bool) : (setPending k b s).portsamples = s.portsamples := rfl
@[simp] theorem setPending_events (k : Nat) (b : Bool) : (setPending k b s).events = s.events := rfl

/-! ### setEnabled -/

@[simp] theorem setEnabled_act (l : Line) (b : Bool) : (setEnabled l b s).act = s.act := rfl
@[simp] theorem setEnabled_cnt (l : Line) (b : Bool) : (setEnabled l b s).cnt = s.cnt := rfl
@[simp] theorem setEnabled_ie (l : Line) (b : Bool) : (setEnabled l b s).ie = s.ie := rfl
@[simp] theorem setEnabled_irq (l : Line) (b : Bool) : (setEnabled l b s).irq = s.irq := rfl
@[simp] theorem setEnabled_miblk (l : Line) (b : Bool) : (setEnabled l b s).miblk = s.miblk := rfl
@[simp] theorem setEnabled_runmode (l : Line) (b : Bool) : (setEnabled l b s).runmode = s.runmode := rfl
@[simp] theorem setEnabled_blkcon (l : Line) (b : Bool) : (setEnabled l b s).blkcon = s.blkcon := rfl
@[simp] theorem setEnabled_fatal (l : Line) (b : Bool) : (setEnabled l b s).fatal = s.fatal := rfl
@[simp] theorem setEnabled_incycle (l : Line) (b : Bool) : (setEnabled l b s).incycle = s.incycle := rfl
@[simp] theorem setEnabled_osccfg (l : Line) (b : Bool) : (setEnabled l b s).osccfg = s.osccfg := rfl
@[simp] theorem setEnabled_adj (l : Line) (b : Bool) : (setEnabled l b s).adj = s.adj := rfl
@[simp] theorem setEnabled_hscnt (l : Line) (b : Bool) : (setEnabled l b s).hscnt = s.hscnt := rfl
@[simp] theorem setEnabled_syscnt (l : Line) (b : Bool) : (setEnabled l b s).syscnt = s.syscnt := rfl
@[simp] theorem setEnabled_hssub (l : Line) (b : Bool) : (setEnabled l b s).hssub = s.hssub := rfl
@[simp] theorem setEnabled_hsout (l : Line) (b : Bool) : (setEnabled l b s).hsout = s.hsout := rfl
@[simp] theorem setEnabled_hsedge (l : Line) (b : Bool) : (setEnabled l b s).hsedge = s.hsedge := rfl
@[simp] theorem setEnabled_lscnt (l : Line) (b : Bool) : (setEnabled l b s).lscnt = s.lscnt := rfl
@[simp] theorem setEnabled_lslen (l : Line) (b : Bool) : (setEnabled l b s).lslen = s.lslen := rfl
@[simp] theorem setEnabled_lstc (l : Line) (b : Bool) : (setEnabled l b s).lstc = s.lstc := rfl
@[simp] theorem setEnabled_lscorr (l : Line) (b : Bool) : (setEnabled l b s).lscorr = s.lscorr := rfl
@[simp] theorem setEnabled_lssub (l : Line) (b : Bool) : (setEnabled l b s).lssub = s.lssub := rfl
@[simp] theorem setEnabled_lsout (l : Line) (b : Bool) : (setEnabled l b s).lsout = s.lsout := rfl
@[simp] theorem setEnabled_lsedge (l : Line) (b : Bool) : (setEnabled l b s).lsedge = s.lsedge := rfl
@[simp] theorem setEnabled_tickhs (l : Line) (b : Bool) : (setEnabled l b s).tickhs = s.tickhs := rfl
@[simp] theorem setEnabled_ticksys (l : Line) (b : Bool) : (setEnabled l b s).ticksys = s.ticksys := rfl
@[simp] theorem setEnabled_tickls (l : Line) (b : Bool) : (setEnabled l b s).tickls = s.tickls := rfl
@[simp] theorem setEnabled_rstls (l : Line) (b : Bool) : (setEnabled l b s).rstls = s.rstls := rfl
@[simp] theorem setEnabled_rsths (l : Line) (b : Bool) : (setEnabled l b s).rsths = s.rsths := rfl
@[simp] theorem setEnabled_rstlsreq (l : Line) (b : Bool) : (setEnabled l b s).rstlsreq = s.rstlsreq := rfl
@[simp] theorem setEnabled_rsthsreq (l : Line) (b : Bool) : (setEnabled l b s).rsthsreq = s.rsthsreq := rfl
@[simp] theorem setEnabled_desc (l : Line) (b : Bool) : (setEnabled l b s).desc = s.desc := rfl
@[simp] theorem setEnabled_port (l : Line) (b : Bool) : (setEnabled l b s).port = s.port := rfl
@[simp] theorem setEnabled_responses (l : Line) (b : Bool) : (setEnabled l b s).responses = s.responses := rfl
@[simp] theorem setEnabled_coreports (l : Line) (b : Bool) : (setEnabled l b s).coreports = s.coreports := rfl
@[simp] theorem setEnabled_portsamples (l : Line) (b : Bool) : (setEnabled l b s).portsamples = s.portsamples := rfl
@[simp] theorem setEnabled_events (l : Line) (b : Bool) : (setEnabled l b s).events = s.events := rfl

/-! ### activate -/

@[simp] theorem activate_len (l : Line) : (activate l s).len = s.len := by unfold activate; split <;> rfl
@[simp] theorem activate_ie (l : Line) : (activate l s).ie = s.ie := by unfold activate; split <;> rfl
@[simp] theorem activate_irq (l : Line) : (activate l s).irq = s.irq := by unfold activate; split <;> rfl
@[simp] theorem activate_miblk (l : Line) : (activate l s).miblk = s.miblk := by unfold activate; split <;> rfl
@[simp] theorem activate_runmode (l : Line) : (activate l s).runmode = s.runmode := by unfold activate; split <;> rfl
@[simp] theorem activate_blkcon (l : Line) : (activate l s).blkcon = s.blkcon := by unfold activate; split <;> rfl
@[simp] theorem activate_fatal (l : Line) : (activate l s).fatal = s.fatal := by unfold activate; split <;> rfl
@[simp] theorem activate_incycle (l : Line) : (activate l s).incycle = s.incycle := by unfold activate; split <;> rfl
@[simp] theorem activate_osccfg (l : Line) : (activate l s).osccfg = s.osccfg := by unfold activate; split <;> rfl
@[simp] theorem activate_adj (l : Line) : (activate l s).adj = s.adj := by unfold activate; split <;> rfl
@[simp] theorem activate_hscnt (l : Line) : (activate l s).hscnt = s.hscnt := by unfold activate; split <;> rfl
@[simp] theorem activate_syscnt (l : Line) : (activate l s).syscnt = s.syscnt := by unfold activate; split <;> rfl
@[simp] theorem activate_hssub (l : Line) : (activate l s).hssub = s.hssub := by unfold activate; split <;> rfl
@[simp] theorem activate_hsout (l : Line) : (activate l s).hsout = s.hsout := by unfold activate; split <;> rfl
@[simp] theorem activate_hsedge (l : Line) : (activate l s).hsedge = s.hsedge := by unfold activate; split <;> rfl
@[simp] theorem activate_lscnt (l : Line) : (activate l s).lscnt = s.lscnt := by unfold activate; split <;> rfl
@[simp] theorem activate_lslen (l : Line) : (activate l s).lslen = s.lslen := by unfold activate; split <;> rfl
@[simp] theorem activate_lstc (l : Line) : (activate l s).lstc = s.lstc := by unfold activate; split <;> rfl
@[simp] theorem activate_lscorr (l : Line) : (activate l s).lscorr = s.lscorr := by unfold activate; split <;> rfl
@[simp] theorem activate_lssub (l : Line) : (activate l s).lssub = s.lssub := by unfold activate; split <;> rfl
@[simp] theorem activate_lsout (l : Line) : (activate l s).lsout = s.lsout := by unfold activate; split <;> rfl
@[simp] theorem activate_lsedge (l : Line) : (activate l s).lsedge = s.lsedge := by unfold activate; split <;> rfl
@[simp] theorem activate_tickhs (l : Line) : (activate l s).tickhs = s.tickhs := by unfold activate; split <;> rfl
@[simp] theorem activate_ticksys (l : Line) : (activate l s).ticksys = s.ticksys := by unfold activate; split <;> rfl
@[simp] theorem activate_tickls (l : Line) : (activate l s).tickls = s.tickls := by unfold activate; split <;> rfl
@[simp] theorem activate_rstls (l : Line) : (activate l s).rstls = s.rstls := by unfold activate; split <;> rfl
@[simp] theorem activate_rsths (l : Line) : (activate l s).rsths = s.rsths := by unfold activate; split <;> rfl
@[simp] theorem activate_rstlsreq (l : Line) : (activate l s).rstlsreq = s.rstlsreq := by unfold activate; split <;> rfl
@[simp] theorem activate_rsthsreq (l : Line) : (activate l s).rsthsreq = s.rsthsreq := by unfold activate; split <;> rfl
@[simp] theorem activate_desc (l : Line) : (activate l s).desc = s.desc := by unfold activate; split <;> rfl
@[simp] theorem activate_port (l : Line) : (activate l s).port = s.port := by unfold activate; split <;> rfl
@[simp] theorem activate_responses (l : Line) : (activate l s).responses = s.responses := by unfold activate; split <;> rfl
@[simp] theorem activate_coreports (l : Line) : (activate l s).coreports = s.coreports := by unfold activate; split <;> rfl
@[simp] theorem activate_portsamples (l : Line) : (activate l s).portsamples = s.portsamples := by unfold activate; split <;> rfl
@[simp] theorem activate_events (l : Line) : (activate l s).events = s.events := by unfold activate; split <;> rfl

/-! ### deactivate -/

@[simp] theorem deactivate_len (l : Line) : (deactivate l s).len = s.len := by unfold deactivate; split <;> rfl
@[simp] theorem deactivate_ie (l : Line) : (deactivate l s).ie = s.ie := by unfold deactivate; split <;> rfl
@[simp] theorem deactivate_irq (l : Line) : (deactivate l s).irq = s.irq := by unfold deactivate; split <;> rfl
@[simp] theorem deactivate_miblk (l : Line) : (deactivate l s).miblk = s.miblk := by unfold deactivate; split <;> rfl
@[simp] theorem deactivate_runmode (l : Line) : (deactivate l s).runmode = s.runmode := by unfold deactivate; split <;> rfl
@[simp] theorem deactivate_blkcon (l : Line) : (deactivate l s).blkcon = s.blkcon := by unfold deactivate; split <;> rfl
@[simp] theorem deactivate_fatal (l : Line) : (deactivate l s).fatal = s.fatal := by unfold deactivate; split <;> rfl
@[simp] theorem deactivate_incycle (l : Line) : (deactivate l s).incycle = s.incycle := by unfold deactivate; split <;> rfl
@[simp] theorem deactivate_osccfg (l : Line) : (deactivate l s).osccfg = s.osccfg := by unfold deactivate; split <;> rfl
@[simp] theorem deactivate_adj (l : Line) : (deactivate l s).adj = s.adj := by unfold deactivate; split <;> rfl
@[simp] theorem deactivate_hscnt (l : Line) : (deactivate l s).hscnt = s.hscnt := by unfold deactivate; split <;> rfl
@[simp] theorem deactivate_syscnt (l : Line) : (deactivate l s).syscnt = s.syscnt := by unfold deactivate; split <;> rfl
@[simp] theorem deactivate_hssub (l : Line) : (deactivate l s).hssub = s.hssub := by unfold deactivate; split <;> rfl
@[simp] theorem deactivate_hsout (l : Line) : (deactivate l s).hsout = s.hsout := by unfold deactivate; split <;> rfl
@[simp] theorem deactivate_hsedge (l : Line) : (deactivate l s).hsedge = s.hsedge := by unfold deactivate; split <;> rfl
@[simp] theorem deactivate_lscnt (l : Line) : (deactivate l s).lscnt = s.lscnt := by unfold deactivate; split <;> rfl
@[simp] theorem deactivate_lslen (l : Line) : (deactivate l s).lslen = s.lslen := by unfold deactivate; split <;> rfl
@[simp] theorem deactivate_lstc (l : Line) : (deactivate l s).lstc = s.lstc := by unfold deactivate; split <;> rfl
@[simp] theorem deactivate_lscorr (l : Line) : (deactivate l s).lscorr = s.lscorr := by unfold deactivate; split <;> rfl
@[simp] theorem deactivate_lssub (l : Line) : (deactivate l s).lssub = s.lssub := by unfold deactivate; split <;> rfl
@[simp] theorem deactivate_lsout (l : Line) : (deactivate l s).lsout = s.lsout := by unfold deactivate; split <;> rfl
@[simp] theorem deactivate_lsedge (l : Line) : (deactivate l s).lsedge = s.lsedge := by unfold deactivate; split <;> rfl
@[simp] theorem deactivate_tickhs (l : Line) : (deactivate l s).tickhs = s.tickhs := by unfold deactivate; split <;> rfl
@[simp] theorem deactivate_ticksys (l : Line) : (deactivate l s).ticksys = s.ticksys := by unfold deactivate; split <;> rfl
@[simp] theorem deactivate_tickls (l : Line) : (deactivate l s).tickls = s.tickls := by unfold deactivate; split <;> rfl
@[simp] theorem deactivate_rstls (l : Line) : (deactivate l s).rstls = s.rstls := by unfold deactivate; split <;> rfl
@[simp] theorem deactivate_rsths (l : Line) : (deactivate l s).rsths = s.rsths := by unfold deactivate; split <;> rfl
@[simp] theorem deactivate_rstlsreq (l : Line) : (deactivate l s).rstlsreq = s.rstlsreq := by unfold deactivate; split <;> rfl
@[simp] theorem deactivate_rsthsreq (l : Line) : (deactivate l s).rsthsreq = s.rsthsreq := by unfold deactivate; split <;> rfl
@[simp] theorem deactivate_desc (l : Line) : (deactivate l s).desc = s.desc := by unfold deactivate; split <;> rfl
@[simp] theorem deactivate_port (l : Line) : (deactivate l s).port = s.port := by unfold deactivate; split <;> rfl
@[simp] theorem deactivate_responses (l : Line) : (deactivate l s).responses = s.responses := by unfold deactivate; split <;> rfl
@[simp] theorem deactivate_coreports (l : Line) : (deactivate l s).coreports = s.coreports := by unfold deactivate; split <;> rfl
@[simp] theorem deactivate_portsamples (l : Line) : (deactivate l s).portsamples = s.portsamples := by unfold deactivate; split <;> rfl
@[simp] theorem deactivate_events (l : Line) : (deactivate l s).events = s.events := by unfold deactivate; split <;> rfl

/-! ### samplePorts -/

@[simp] theorem samplePorts_act : (samplePorts s).act = s.act := by unfold samplePorts; split <;> rfl
@[simp] theorem samplePorts_cnt : (samplePorts s).cnt = s.cnt := by unfold samplePorts; split <;> rfl
@[simp] theorem samplePorts_len : (samplePorts s).len = s.len := by unfold samplePorts; split <;> rfl
@[simp] theorem samplePorts_ie : (samplePorts s).ie = s.ie := by unfold samplePorts; split <;> rfl
@[simp] theorem samplePorts_irq : (samplePorts s).irq = s.irq := by unfold samplePorts; split <;> rfl
@[simp] theorem samplePorts_miblk : (samplePorts s).miblk = s.miblk := by unfold samplePorts; split <;> rfl
@[simp] theorem samplePorts_runmode : (samplePorts s).runmode = s.runmode := by unfold samplePorts; split <;> rfl
@[simp] theorem samplePorts_blkcon : (samplePorts s).blkcon = s.blkcon := by unfold samplePorts; split <;> rfl
@[simp] theorem samplePorts_fatal : (samplePorts s).fatal = s.fatal := by unfold samplePorts; split <;> rfl
@[simp] theorem samplePorts_incycle : (samplePorts s).incycle = s.incycle := by unfold samplePorts; split <;> rfl
@[simp] theorem samplePorts_osccfg : (samplePorts s).osccfg = s.osccfg := by unfold samplePorts; split <;> rfl
@[simp] theorem samplePorts_adj : (samplePorts s).adj = s.adj := by unfold samplePorts; split <;> rfl
@[simp] theorem samplePorts_hscnt : (samplePorts s).hscnt = s.hscnt := by unfold samplePorts; split <;> rfl
@[simp] theorem samplePorts_syscnt : (samplePorts s).syscnt = s.syscnt := by unfold samplePorts; split <;> rfl
@[simp] theorem samplePorts_hssub : (samplePorts s).hssub = s.hssub := by unfold samplePorts; split <;> rfl
@[simp] theorem samplePorts_hsout : (samplePorts s).hsout = s.hsout := by unfold samplePorts; split <;> rfl
@[simp] theorem samplePorts_hsedge : (samplePorts s).hsedge = s.hsedge := by unfold samplePorts; split <;> rfl
@[simp] theorem samplePorts_lscnt : (samplePorts s).lscnt = s.lscnt := by unfold samplePorts; split <;> rfl
@[simp] theorem samplePorts_lslen : (samplePorts s).lslen = s.lslen := by unfold samplePorts; split <;> rfl
@[simp] theorem samplePorts_lstc : (samplePorts s).lstc = s.lstc := by unfold samplePorts; split <;> rfl
@[simp] theorem samplePorts_lscorr : (samplePorts s).lscorr = s.lscorr := by unfold samplePorts; split <;> rfl
@[simp] theorem samplePorts_lssub : (samplePorts s).lssub = s.lssub := by unfold samplePorts; split <;> rfl
@[simp] theorem samplePorts_lsout : (samplePorts s).lsout = s.lsout := by unfold samplePorts; split <;> rfl
@[simp] theorem samplePorts_lsedge : (samplePorts s).lsedge = s.lsedge := by unfold samplePorts; split <;> rfl
@[simp] theorem samplePorts_tickhs : (samplePorts s).tickhs = s.tickhs := by unfold samplePorts; split <;> rfl
@[simp] theorem samplePorts_ticksys : (samplePorts s).ticksys = s.ticksys := by unfold samplePorts; split <;> rfl
@[simp] theorem samplePorts_tickls : (samplePorts s).tickls = s.tickls := by unfold samplePorts; split <;> rfl
@[simp] theorem samplePorts_rstls : (samplePorts s).rstls = s.rstls := by unfold samplePorts; split <;> rfl
@[simp] theorem samplePorts_rsths : (samplePorts s).rsths = s.rsths := by unfold samplePorts; split <;> rfl
@[simp] theorem samplePorts_rstlsreq : (samplePorts s).rstlsreq = s.rstlsreq := by unfold samplePorts; split <;> rfl
@[simp] theorem samplePorts_rsthsreq : (samplePorts s).rsthsreq = s.rsthsreq := by unfold samplePorts; split <;> rfl
@[simp] theorem samplePorts_desc : (samplePorts s).desc = s.desc := by unfold samplePorts; split <;> rfl
@[simp] theorem samplePorts_port : (samplePorts s).port = s.port := by unfold samplePorts; split <;> rfl
@[simp] theorem samplePorts_responses : (samplePorts s).responses = s.responses := by unfold samplePorts; split <;> rfl
@[simp] theorem samplePorts_events : (samplePorts s).events = s.events := by unfold samplePorts; split <;> rfl

@[simp] theorem emit_events (e : Event) : (emit e s).events = s.events ++ [e] := rfl
@[simp] theorem raiseFatal_fatal (c : FatalCode) : (raiseFatal c s).fatal = some c := rfl
@[simp] theorem setPending_irq (k : Nat) (b : Bool) : (setPending k b s).irq = putBit s.irq k b := rfl
@[simp] theorem setEnabled_len (l : Line) (b : Bool) : (setEnabled l b s).len = putBit s.len (shadowBit l) b := rfl

end Sys2Proof.Machine
end

