-- ==== Sys2Proof/Laws/Ops.lean ====
section
/-! SUPPORT. What each shared operation can do, said once. -/

namespace Sys2Proof.Machine

open Sys2Proof.Config

/-! ### Bits -/

theorem getLsbD_putBit {w : Nat} (v : BitVec w) (k j : Nat) (b : Bool) (hk : k < w) :
    (putBit v k b).getLsbD j = if j = k then b else v.getLsbD j := by
  by_cases hj : j < w
  · cases b <;> by_cases h : k = j <;>
      simp [putBit, hj, h, Ne.symm]
  · have h : j ≠ k := by omega
    simp [h, BitVec.getLsbD_of_ge _ _ (Nat.le_of_not_lt hj)]

theorem putBit_of_same {w : Nat} (v : BitVec w) (k : Nat) (b : Bool) (hk : k < w) (h : v.getLsbD k = b) :
    putBit v k b = v := by
  apply BitVec.eq_of_getLsbD_eq
  intro j hj
  rw [getLsbD_putBit v k j b hk]
  split
  · simp_all
  · rfl

/-! ### Sequencing and fatal errors -/

@[simp] theorem unlessFatal_of_none {f : State → State} {s : State} (h : s.fatal = none) :
    unlessFatal f s = f s := by simp [unlessFatal, h]

theorem unlessFatal_of_faulted {f : State → State} {s : State} (h : s.fatal ≠ none) :
    unlessFatal f s = s := by
  unfold unlessFatal; split <;> simp_all

@[simp] theorem inOrder_nil (s : State) : inOrder [] s = s := rfl

@[simp] theorem inOrder_cons (f : State → State) (fs : List (State → State)) (s : State) :
    inOrder (f :: fs) s = inOrder fs (unlessFatal f s) := rfl

theorem inOrder_of_faulted (fs : List (State → State)) {s : State} (h : s.fatal ≠ none) :
    inOrder fs s = s := by
  induction fs with
  | nil => rfl
  | cons f fs ih => rw [inOrder_cons, unlessFatal_of_faulted h, ih]

theorem eachFrom_of_faulted (f : Nat → Peripheral → State → State) (n : Nat) (ps : List Peripheral)
    {s : State} (h : s.fatal ≠ none) : eachFrom f n ps s = s := by
  induction ps generalizing n with
  | nil => rfl
  | cons p ps ih => rw [eachFrom, unlessFatal_of_faulted h, ih]

/-- What every operation of a sequence keeps, the sequence keeps. -/
theorem inOrder_keeps {P : State → Prop} {fs : List (State → State)}
    (hf : ∀ f ∈ fs, ∀ s, s.fatal = none → P s → P (f s)) {s : State} (h : P s) : P (inOrder fs s) := by
  induction fs generalizing s with
  | nil => exact h
  | cons f fs ih =>
    rw [inOrder_cons]
    apply ih (fun g hg => hf g (List.mem_cons_of_mem _ hg))
    by_cases hs : s.fatal = none
    · rw [unlessFatal_of_none hs]; exact hf f List.mem_cons_self s hs h
    · rw [unlessFatal_of_faulted hs]; exact h

/-- What the body of a loop over peripherals keeps, the loop keeps. -/
theorem eachFrom_keeps {P : State → Prop} {f : Nat → Peripheral → State → State}
    (hf : ∀ n p s, s.fatal = none → P s → P (f n p s)) (n : Nat) (ps : List Peripheral) {s : State}
    (h : P s) : P (eachFrom f n ps s) := by
  induction ps generalizing n s with
  | nil => exact h
  | cons p ps ih =>
    rw [eachFrom]
    apply ih
    by_cases hs : s.fatal = none
    · rw [unlessFatal_of_none hs]; exact hf n p s hs h
    · rw [unlessFatal_of_faulted hs]; exact h

/-- What the body of a loop over shadow bits keeps, the loop keeps. -/
theorem eachShadowBit_keeps {P : State → Prop} {f : Nat → State → State} {s : State}
    (hf : ∀ k t, 1 ≤ k → k ≤ lineCount s.desc → P t → P (f k t)) (h : P s) : P (eachShadowBit f s) := by
  unfold eachShadowBit
  have hmem : ∀ k ∈ List.range' 1 (lineCount s.desc), 1 ≤ k ∧ k ≤ lineCount s.desc := by
    intro k hk; simp [List.mem_range'] at hk; omega
  revert hmem h
  generalize List.range' 1 (lineCount s.desc) = l
  have hgen : ∀ (l : List Nat) (t : State), P t → (∀ k ∈ l, 1 ≤ k ∧ k ≤ lineCount s.desc) →
      P (l.foldl (fun s k => f k s) t) := by
    intro l
    induction l with
    | nil => intro t ht _; exact ht
    | cons k l ih =>
      intro t ht hm
      have hk := hm k List.mem_cons_self
      exact ih _ (hf k t hk.1 hk.2 ht) (fun j hj => hm j (List.mem_cons_of_mem _ hj))
  intro h hm
  exact hgen l s h hm

/-! ### The bitmap and its counter -/

theorem isActive_activate (s : State) (l m : Line) :
    isActive (activate l s) m = (decide (m = l) || isActive s m) := by
  have hl : l.toNat < 128 := l.isLt
  unfold activate
  by_cases h : isActive s l = true
  · rw [if_pos h]
    by_cases hm : m = l
    · subst hm; simp [h]
    · simp [hm]
  · rw [if_neg h]
    simp only [isActive] at *
    rw [getLsbD_putBit _ _ _ _ hl]
    by_cases hm : m = l
    · subst hm; simp
    · have : m.toNat ≠ l.toNat := fun h' => hm (BitVec.eq_of_toNat_eq h')
      simp [hm, this]

theorem isActive_deactivate (s : State) (l m : Line) :
    isActive (deactivate l s) m = (!decide (m = l) && isActive s m) := by
  have hl : l.toNat < 128 := l.isLt
  unfold deactivate
  by_cases h : isActive s l = true
  · rw [if_pos h]
    simp only [isActive] at *
    rw [getLsbD_putBit _ _ _ _ hl]
    by_cases hm : m = l
    · subst hm; simp
    · have : m.toNat ≠ l.toNat := fun h' => hm (BitVec.eq_of_toNat_eq h')
      simp [hm, this]
  · rw [if_neg h]
    by_cases hm : m = l
    · subst hm; simp_all
    · simp [hm]

theorem activate_cnt (s : State) (l : Line) :
    (activate l s).cnt = if isActive s l then s.cnt else s.cnt + 1 := by
  unfold activate; split <;> simp_all

theorem deactivate_cnt (s : State) (l : Line) :
    (deactivate l s).cnt = if isActive s l then s.cnt - 1 else s.cnt := by
  unfold deactivate; split <;> simp_all

theorem activate_frame (s : State) (l : Line) :
    activate l s = { s with act := (activate l s).act, cnt := (activate l s).cnt } := by
  unfold activate; split <;> rfl

theorem deactivate_frame (s : State) (l : Line) :
    deactivate l s = { s with act := (deactivate l s).act, cnt := (deactivate l s).cnt } := by
  unfold deactivate; split <;> rfl

/-- Two bitmaps with the same slots are the same. -/
theorem act_eq_of_isActive {s t : State} (h : ∀ m : Line, isActive s m = isActive t m) : s.act = t.act := by
  apply BitVec.eq_of_getLsbD_eq
  intro i hi
  have := h (BitVec.ofNat 7 i)
  simpa [isActive, Nat.mod_eq_of_lt hi] using this

theorem isActive_congr {s t : State} (h : s.act = t.act) (l : Line) : isActive s l = isActive t l := by
  simp [isActive, h]

/-- Setting an inactive slot adds one to the count, clearing an active one takes one away. -/
theorem activeCount_putBit (act : BitVec 128) (k : Nat) (hk : k < 128) (b : Bool) :
    activeCount (putBit act k b) + (act.getLsbD k).toNat = activeCount act + b.toNat := by
  unfold activeCount
  have key : ∀ l : List Nat, l.Nodup → (l.countP (fun i => (putBit act k b).getLsbD i))
      + (if k ∈ l then (act.getLsbD k).toNat else 0)
      = l.countP (fun i => act.getLsbD i) + (if k ∈ l then b.toNat else 0) := by
    intro l
    induction l with
    | nil => simp
    | cons i l ih =>
      intro hnd
      have hi : i ∉ l := (List.nodup_cons.mp hnd).1
      have ih := ih (List.nodup_cons.mp hnd).2
      rw [List.countP_cons, List.countP_cons, getLsbD_putBit _ _ _ _ hk]
      by_cases hik : i = k
      · subst hik
        simp only [hi, if_false, List.mem_cons, true_or, if_true] at ih ⊢
        cases b <;> cases h : act.getLsbD i <;> simp_all
      · have hki : ¬ k = i := fun h' => hik h'.symm
        simp only [hik, if_false, List.mem_cons, hki, false_or] at ih ⊢
        omega
  have := key (List.range 128) List.nodup_range
  simpa [hk] using this

theorem activeCount_le (act : BitVec 128) : activeCount act ≤ 128 := by
  have := List.countP_le_length (p := fun i => act.getLsbD i) (l := List.range 128)
  simpa [activeCount] using this

theorem activeCount_pos {act : BitVec 128} {k : Nat} (hk : k < 128) (h : act.getLsbD k = true) :
    0 < activeCount act := by
  unfold activeCount
  rw [List.countP_pos_iff]
  exact ⟨k, by simpa using hk, h⟩

/-! ### The ports, the responder -/

theorem samplePorts_eq (s : State) : samplePorts s = sampled s := by
  cases h : s.portsamples with
  | nil => simp only [samplePorts, sampled, h, List.headD_nil, List.tail_nil]; rw [← h]
  | cons p rest => simp [samplePorts, sampled, h]

theorem respondWithin_quiet (n : Nat) {s : State} (h : s.responses = []) : respondWithin n s = s := by
  cases n with
  | zero => rfl
  | succ n => simp [respondWithin, h]

/-- With no response listed every response is the empty one. -/
theorem respond_quiet {s : State} (h : s.responses = []) : respond s = s := respondWithin_quiet _ h

theorem hook_quiet {e : Event} {s : State} (h : s.responses = []) : hook respond e s = emit e s :=
  respond_quiet (by simpa using h)

end Sys2Proof.Machine
end

