-- ==== Sys2Proof/Laws/Lines.lean ====
section
/-! SUPPORT. What the operations on lines and shadow bits can do: raise, clear, pend, enable, deliver. -/

namespace Sys2Proof.Machine

open Sys2Proof.Config

theorem lineRaised_activate (l : Line) (s : State) : LineRaised l s (activate l s) :=
  ⟨activate_frame s l, isActive_activate s l, activate_cnt s l⟩

theorem lineLowered_deactivate (l : Line) (s : State) : LineLowered l s (deactivate l s) :=
  ⟨deactivate_frame s l, isActive_deactivate s l, deactivate_cnt s l⟩

/-- An operand check that passes is no check. -/
theorem checked_of_true {ok : Bool} {c : FatalCode} {f : State → State} {s : State} (h : ok = true) :
    checked ok c f s = f s := by simp [checked, h]

/-- An operand check that fails raises its code. -/
theorem checked_of_false {ok : Bool} {c : FatalCode} {f : State → State} {s : State} (h : ok = false) :
    checked ok c f s = { s with fatal := some c } := by simp [checked, h, raiseFatal]

theorem isMaskable_iff (l : Line) : isMaskable l = true ↔ 4 ≤ l.toNat ∧ l.toNat ≤ 63 := by
  simp [isMaskable]

theorem isEffective_iff (d : Descriptor) (l : Line) :
    isEffective d l = true ↔ 4 ≤ l.toNat ∧ l.toNat ≤ 3 + lineCount d := by simp [isEffective]

theorem lineCount_bounds (d : Descriptor) : 12 ≤ lineCount d ∧ lineCount d ≤ 21 := by
  unfold lineCount; split <;> omega

/-- The shadow bit of an effective line is one of bits 1..N. -/
theorem shadowBit_bounds {d : Descriptor} {l : Line} (h : isEffective d l = true) :
    1 ≤ shadowBit l ∧ shadowBit l ≤ lineCount d ∧ shadowBit l < 22 := by
  have := (isEffective_iff d l).mp h
  have := lineCount_bounds d
  simp only [shadowBit, managedBase]; omega

/-- The line of bits 1..N, as a number. -/
theorem toNat_lineOfBit {d : Descriptor} {k : Nat} (h : k ≤ lineCount d) : (lineOfBit k).toNat = k + 3 := by
  have := lineCount_bounds d
  simp only [lineOfBit, managedBase, BitVec.toNat_ofNat]; omega

theorem shadowBit_lineOfBit {d : Descriptor} {k : Nat} (h : k ≤ lineCount d) : shadowBit (lineOfBit k) = k := by
  rw [shadowBit, toNat_lineOfBit h, managedBase]; omega

/-- Every bit of IRQ after one of them was written. -/
theorem getLsbD_setPending (s : State) (k j : Nat) (b : Bool) (hk : k < 22) :
    (setPending k b s).irq.getLsbD j = if j = k then b else s.irq.getLsbD j :=
  getLsbD_putBit s.irq k j b hk

/-- Every bit of LEN after one of them was written. -/
theorem getLsbD_setEnabled (s : State) (l : Line) (j : Nat) (b : Bool) (hl : shadowBit l < 22) :
    (setEnabled l b s).len.getLsbD j = if j = shadowBit l then b else s.len.getLsbD j :=
  getLsbD_putBit s.len (shadowBit l) j b hl

/-- TryRaise: pending in every case, then the line raised or nothing more (R181). -/
theorem tryRaise_cases (l : Line) (s : State) :
    (isEnabled s l = true ∧ tryRaise l s = activate l (setPending (shadowBit l) true s))
      ∨ (isEnabled s l = false ∧ tryRaise l s = setPending (shadowBit l) true s) := by
  cases h : isEnabled s l
  · exact .inr ⟨rfl, by simp [tryRaise, isEnabled, setPending] at *; simp [h]⟩
  · exact .inl ⟨rfl, by simp [tryRaise, isEnabled, setPending] at *; simp [h]⟩

/-- REQ.NMI: the bit in every case, then line 3 raised or nothing more (R120). -/
theorem requestNonmaskable_cases (s : State) :
    (s.ie.getLsbD 0 = true ∧ requestNonmaskable s = activate 3 (setPending 0 true s))
      ∨ (s.ie.getLsbD 0 = false ∧ requestNonmaskable s = setPending 0 true s) := by
  unfold requestNonmaskable
  cases h : s.ie.getLsbD 0
  · exact .inr ⟨rfl, if_neg (by rw [setPending_ie, h]; decide)⟩
  · exact .inl ⟨rfl, if_pos (by rw [setPending_ie, h])⟩

/-- The pending bit delivery clears, bit by bit (R145). -/
theorem getLsbD_clearPendingOf (l : Line) (s : State) (j : Nat) :
    (clearPendingOf l s).irq.getLsbD j
      = (!decide (3 ≤ l.toNat ∧ l.toNat ≤ 3 + lineCount s.desc ∧ j = l.toNat - 3) && s.irq.getLsbD j) := by
  unfold clearPendingOf
  by_cases h3 : l = 3
  · subst h3
    rw [if_pos rfl, getLsbD_setPending _ _ _ _ (by omega)]
    by_cases hj : j = 0 <;> simp [hj]
  · have h3' : l.toNat ≠ 3 := fun h => h3 (BitVec.eq_of_toNat_eq h)
    rw [if_neg h3]
    by_cases he : isEffective s.desc l = true
    · have hb := shadowBit_bounds he
      have := (isEffective_iff _ _).mp he
      rw [if_pos he, getLsbD_setPending _ _ _ _ hb.2.2]
      simp only [shadowBit, managedBase]
      by_cases hj : j = l.toNat - 3
      · simp [hj, show 3 ≤ l.toNat by omega, this.2]
      · simp [hj]
    · rw [if_neg he]
      have : ¬ (3 ≤ l.toNat ∧ l.toNat ≤ 3 + lineCount s.desc ∧ j = l.toNat - 3) := fun h =>
        he ((isEffective_iff _ _).mpr (by omega))
      simp [this]

theorem clearPendingOf_frame (l : Line) (s : State) :
    clearPendingOf l s = { s with irq := (clearPendingOf l s).irq } := by
  unfold clearPendingOf; split
  · rfl
  · split <;> rfl

/-- Delivery of an active line, whole: what it writes and what it leaves (R145 to R147). -/
theorem deliver_eq {l : Line} {s : State} (h : isActive s l = true) :
    deliver l s = { s with
      irq := (clearPendingOf l s).irq, act := putBit s.act l.toNat false, cnt := s.cnt - 1,
      runmode := .running, events := s.events ++ [.raiseException (exceptionLevel l) l] } := by
  have ha : isActive (clearPendingOf l s) l = true := by rw [clearPendingOf_frame]; exact h
  unfold deliver deactivate
  rw [if_pos ha]
  rw [clearPendingOf_frame]
  rfl

/-- The arbiter's answer is an active line, whatever the bitmap. -/
theorem isActive_of_selectLine {s : State} {l : Line} (h : selectLine s = some l) : isActive s l = true := by
  unfold selectLine lowestActive at h
  split at h
  · cases h; assumption
  · split at h
    · cases h; rename_i h; exact List.find?_some h
    · split at h
      · cases h; assumption
      · split at h
        · cases h; assumption
        · split at h
          · cases h; simp_all
          · split at h
            · exact List.find?_some h
            · cases h

/-- ACCEPT: nothing, or the sampling alone, or the selected line delivered (R140, R149, R152). -/
theorem acceptInterrupt_cases (s : State) :
    (s.cnt = 0 ∧ acceptInterrupt s = s)
      ∨ (s.cnt ≠ 0 ∧ selectLine (sampled s) = none ∧ acceptInterrupt s = sampled s)
      ∨ (∃ l, s.cnt ≠ 0 ∧ selectLine (sampled s) = some l
          ∧ acceptInterrupt s = deliver l (diagnoseNested l (sampled s))) := by
  unfold acceptInterrupt
  by_cases hc : s.cnt = 0
  · exact .inl ⟨hc, if_pos hc⟩
  · simp only [if_neg hc, samplePorts_eq]
    cases h : selectLine (sampled s) with
    | none => exact .inr (.inl ⟨hc, rfl, rfl⟩)
    | some l => exact .inr (.inr ⟨l, hc, rfl, rfl⟩)

/-- The arbiter writes nothing but the slot, the counter, the pending bits, the run mode, the ports it
sampled and the output. -/
theorem acceptInterrupt_frame (s : State) :
    acceptInterrupt s = { s with
      act := (acceptInterrupt s).act, cnt := (acceptInterrupt s).cnt, irq := (acceptInterrupt s).irq,
      runmode := (acceptInterrupt s).runmode, coreports := (acceptInterrupt s).coreports,
      portsamples := (acceptInterrupt s).portsamples, events := (acceptInterrupt s).events } := by
  rcases acceptInterrupt_cases s with ⟨-, h⟩ | ⟨-, -, h⟩ | ⟨l, -, hl, h⟩
  · rw [h]
  · rw [h]; rfl
  · have ha : isActive (diagnoseNested l (sampled s)) l = true := by
      have := isActive_of_selectLine hl
      unfold diagnoseNested; split <;> exact this
    rw [h, deliver_eq ha]
    unfold diagnoseNested; split <;> rfl

end Sys2Proof.Machine
end

