-- ==== Sys2Proof/Laws/Bus.lean ====
section
/-! SUPPORT. The register bus: which register an address belongs to, and the bytes of a register. -/

namespace Sys2Proof.Machine

open Sys2Proof.Config

/-- In a list of disjoint ranges the one range that holds an address is found, wherever it stands. -/
theorem locateIn_of_mem {l : List (Reg × Addr × Nat)} (hd : pairwiseDisjoint l = true) {reg : Reg}
    {base addr : Addr} {bytes : Nat} (hm : (reg, base, bytes) ∈ l) (hlo : base.toNat ≤ addr.toNat)
    (hhi : addr.toNat < base.toNat + bytes) : locateIn addr l = some (reg, addr.toNat - base.toNat) := by
  induction l with
  | nil => cases hm
  | cons r rest ih =>
    obtain ⟨reg', base', bytes'⟩ := r
    simp only [pairwiseDisjoint, Bool.and_eq_true, List.all_eq_true] at hd
    unfold locateIn
    rcases List.mem_cons.mp hm with h | h
    · cases h; rw [if_pos ⟨hlo, hhi⟩]
    · have := hd.1 _ h
      simp only [rangesDisjoint, Bool.or_eq_true, decide_eq_true_eq] at this
      rw [if_neg (by omega)]
      exact ih hd.2 h

theorem locateIn_eq_none {l : List (Reg × Addr × Nat)} {addr : Addr}
    (h : ∀ r ∈ l, ¬ (r.2.1.toNat ≤ addr.toNat ∧ addr.toNat < r.2.1.toNat + r.2.2)) :
    locateIn addr l = none := by
  induction l with
  | nil => rfl
  | cons r rest ih =>
    obtain ⟨reg, base, bytes⟩ := r
    unfold locateIn
    rw [if_neg (h _ List.mem_cons_self)]
    exact ih (fun r hr => h r (List.mem_cons_of_mem _ hr))

theorem legalDescriptor_iff (d : Descriptor) :
    legalDescriptor d = true ↔ 32768 ≤ d.cps ∧ pairwiseDisjoint (registerMap d) = true
      ∧ (∀ r ∈ registerMap d, r.2.1.toNat + r.2.2 ≤ 65536) ∧ 1 ≤ d.lsSubsteps ∧ d.lsSubsteps ≤ 128
      ∧ lsNom d + 1 < 2 ^ 32 := by
  simp only [legalDescriptor, Bool.and_eq_true, decide_eq_true_eq, List.all_eq_true, and_assoc]

/-- On a descriptor construction admits, an address of a register is decoded to that register (R60). -/
theorem locate_of_addressOf {d : Descriptor} (hd : legalDescriptor d = true) {reg : Reg} {k : Nat} {addr : Addr}
    (h : AddressOf d reg k addr) : locate d addr = some (reg, k) := by
  obtain ⟨base, bytes, hm, hk, ha⟩ := h
  have := locateIn_of_mem ((legalDescriptor_iff d).mp hd).2.1 hm (addr := addr) (by omega) (by omega)
  rw [locate, this, ha]
  simp

theorem addressOf_of_locate {d : Descriptor} {reg : Reg} {k : Nat} {addr : Addr}
    (h : locate d addr = some (reg, k)) : AddressOf d reg k addr := by
  have key : ∀ l : List (Reg × Addr × Nat), locateIn addr l = some (reg, k) →
      ∃ base bytes, (reg, base, bytes) ∈ l ∧ k < bytes ∧ addr.toNat = base.toNat + k := by
    intro l
    induction l with
    | nil => intro h; cases h
    | cons r rest ih =>
      obtain ⟨reg', base', bytes'⟩ := r
      intro h
      unfold locateIn at h
      split at h
      · cases h
        exact ⟨base', bytes', List.mem_cons_self, by omega, by omega⟩
      · obtain ⟨b, n, hm, h⟩ := ih h
        exact ⟨b, n, List.mem_cons_of_mem _ hm, h⟩
  exact key _ h

/-- An address in no register's range is a bus miss, whatever the descriptor (R72). -/
theorem locate_of_unmapped {d : Descriptor} {addr : Addr} (h : Unmapped d addr) : locate d addr = none := by
  cases hl : locate d addr with
  | none => rfl
  | some rk => exact absurd (addressOf_of_locate hl) (h rk.1 rk.2)

/-- The offset of an address is below its register's size. -/
theorem offset_lt {d : Descriptor} {reg : Reg} {k : Nat} {addr : Addr} (h : AddressOf d reg k addr) :
    k < match reg with
        | .adj => 2
        | .ie => shadowBytes d
        | .irq => shadowBytes d
        | .osccfg | .lsrst | .hsrst | .blkcon => 1 := by
  obtain ⟨base, bytes, hm, hk, -⟩ := h
  simp only [registerMap, List.mem_cons, List.mem_nil_iff, or_false, Prod.mk.injEq] at hm
  rcases hm with ⟨rfl, -, rfl⟩ | ⟨rfl, -, rfl⟩ | ⟨rfl, -, rfl⟩ | ⟨rfl, -, rfl⟩ | ⟨rfl, -, rfl⟩ | ⟨rfl, -, rfl⟩
    | ⟨rfl, -, rfl⟩ <;> exact hk

theorem shadowBytes_le (d : Descriptor) : shadowBytes d ≤ 3 := by
  have := lineCount_bounds d
  simp only [shadowBytes, shadowWidth]; omega

theorem getLsbD_byteAt (v : BitVec 24) (k j : Nat) :
    (byteAt v k).getLsbD j = (decide (j < 8) && v.getLsbD (8 * k + j)) := by
  simp [byteAt, BitVec.getLsbD_extractLsb']

/-- The merge of one byte, bit by bit (R64). -/
theorem getLsbD_mergeByte (old : BitVec 24) (k : Nat) (v : Byte) (j : Nat) (hj : j < 24) :
    (mergeByte old k v).getLsbD j
      = if 8 * k ≤ j ∧ j < 8 * k + 8 then v.getLsbD (j - 8 * k) else old.getLsbD j := by
  simp only [mergeByte, BitVec.getLsbD_or, BitVec.getLsbD_and, BitVec.getLsbD_not, BitVec.getLsbD_shiftLeft,
    BitVec.getLsbD_setWidth, hj, decide_true, Bool.true_and]
  by_cases hlo : 8 * k ≤ j
  · have h24 : j - 8 * k < 24 := by omega
    have hlt : ¬ j < 8 * k := by omega
    by_cases hhi : j < 8 * k + 8
    · have hff : (0xFF#24).getLsbD (j - 8 * k) = true := by
        have : ∀ i < 8, (0xFF#24).getLsbD i = true := by decide
        exact this _ (by omega)
      rw [if_pos ⟨hlo, hhi⟩, hff]
      simp only [hlt, h24, decide_true, decide_false, Bool.not_false, Bool.not_true, Bool.and_false,
        Bool.false_or, Bool.true_and]
    · have hff : (0xFF#24).getLsbD (j - 8 * k) = false := by
        have : ∀ i < 24, 8 ≤ i → (0xFF#24).getLsbD i = false := by decide
        exact this _ h24 (by omega)
      rw [if_neg (fun h => hhi h.2), hff, BitVec.getLsbD_of_ge v (j - 8 * k) (by omega)]
      simp only [Bool.and_false, Bool.not_false, Bool.and_true, Bool.or_false]
  · rw [if_neg (fun h => hlo h.1)]
    simp only [show j < 8 * k by omega, decide_true, Bool.not_true, Bool.false_and, Bool.not_false,
      Bool.and_true, Bool.or_false]

/-- The bits of `2^W - 1` are the bits 0..N. -/
theorem getLsbD_shadowMask (d : Descriptor) (j : Nat) : (shadowMask d).getLsbD j = decide (j ≤ lineCount d) := by
  have hN := lineCount_bounds d
  unfold shadowMask shadowWidth
  rw [BitVec.getLsbD_ofNat, Nat.testBit_two_pow_sub_one]
  by_cases h : j ≤ lineCount d
  · simp [h, show j < 22 by omega, show j < lineCount d + 1 by omega]
  · simp [h, show ¬ j < lineCount d + 1 by omega]

/-- A valid mask has no bit outside the `W` bits (R6). -/
theorem le_of_ieValid {d : Descriptor} {j : Nat} (h : (ieValid d).getLsbD j = true) : j ≤ lineCount d := by
  rw [ieValid, BitVec.getLsbD_and, getLsbD_shadowMask] at h
  simp at h; exact h.2

theorem le_of_irqValid {d : Descriptor} {j : Nat} (h : (irqValid d).getLsbD j = true) : j ≤ lineCount d := by
  rw [irqValid, BitVec.getLsbD_and, getLsbD_shadowMask] at h
  simp at h; exact h.2

end Sys2Proof.Machine
end

