-- ==== Sys2Proof/Laws/Decode.lean ====
section
/-! SUPPORT. The fields of a command word, and of the operands packed in them. -/

namespace Sys2Proof

theorem getLsbD_commandWord (op : BitVec 8) (a : BitVec 16) (d : BitVec 8) (i : Nat) (hi : i < 32) :
    (commandWord op a d).getLsbD i
      = if i < 8 then d.getLsbD i else if i < 24 then a.getLsbD (i - 8) else op.getLsbD (i - 24) := by
  simp only [commandWord, BitVec.getLsbD_or, BitVec.getLsbD_shiftLeft, BitVec.getLsbD_setWidth, hi]
  by_cases h8 : i < 8
  · simp [h8, show i < 24 by omega]
  · by_cases h24 : i < 24
    · simp [h8, h24, show i - 8 < 32 by omega, BitVec.getLsbD_of_ge d i (by omega)]
    · simp [h8, h24, show i - 24 < 32 by omega, BitVec.getLsbD_of_ge d i (by omega),
        BitVec.getLsbD_of_ge a (i - 8) (by omega)]

@[simp] theorem opField_commandWord (op : BitVec 8) (a : BitVec 16) (d : BitVec 8) :
    opField (commandWord op a d) = op := by
  apply BitVec.eq_of_getLsbD_eq
  intro i hi
  rw [opField, BitVec.getLsbD_extractLsb', getLsbD_commandWord _ _ _ _ (by omega)]
  simp [hi, show ¬ 24 + i < 8 by omega]

@[simp] theorem aField_commandWord (op : BitVec 8) (a : BitVec 16) (d : BitVec 8) :
    aField (commandWord op a d) = a := by
  apply BitVec.eq_of_getLsbD_eq
  intro i hi
  rw [aField, BitVec.getLsbD_extractLsb', getLsbD_commandWord _ _ _ _ (by omega)]
  simp [hi, show 8 + i < 24 by omega]

@[simp] theorem dField_commandWord (op : BitVec 8) (a : BitVec 16) (d : BitVec 8) :
    dField (commandWord op a d) = d := by
  apply BitVec.eq_of_getLsbD_eq
  intro i hi
  rw [dField, BitVec.getLsbD_extractLsb', getLsbD_commandWord _ _ _ _ (by omega)]
  simp [hi]

/-- A word is its three fields. -/
theorem commandWord_fields (w : CommandWord) : commandWord (opField w) (aField w) (dField w) = w := by
  apply BitVec.eq_of_getLsbD_eq
  intro i hi
  rw [getLsbD_commandWord _ _ _ _ hi]
  simp only [opField, aField, dField, BitVec.getLsbD_extractLsb']
  by_cases h8 : i < 8
  · simp [h8]
  · by_cases h24 : i < 24
    · simp [h8, h24, show i - 8 < 16 by omega, show 8 + (i - 8) = i by omega]
    · simp [h8, h24, show i - 24 < 8 by omega, show 24 + (i - 24) = i by omega]

@[simp] theorem decode_commandWord (op : BitVec 8) (a : BitVec 16) (d : BitVec 8) :
    decode (commandWord op a d) = decodeFields op a d := by simp [decode]

@[simp] theorem indexOperand_indexField (l : Line) : indexOperand (indexField l) = l := by
  apply BitVec.eq_of_getLsbD_eq
  intro i hi
  simp [indexOperand, indexField, hi, show i < 16 by omega]

@[simp] theorem indexOnly_indexField (l : Line) : indexOnly (indexField l) = true := by
  simp only [indexOnly, beq_iff_eq]
  apply BitVec.eq_of_getLsbD_eq
  intro i hi
  simp [indexField]

theorem indexField_indexOperand {a : BitVec 16} (h : indexOnly a = true) : indexField (indexOperand a) = a := by
  simp only [indexOnly, beq_iff_eq] at h
  apply BitVec.eq_of_getLsbD_eq
  intro i hi
  by_cases h7 : i < 7
  · simp [indexField, indexOperand, h7, hi]
  · have hb := congrArg (fun v => v.getLsbD (i - 7)) h
    simp only [BitVec.getLsbD_extractLsb', show i - 7 < 9 by omega, show 7 + (i - 7) = i by omega,
      decide_true, Bool.true_and, BitVec.getLsbD_zero] at hb
    simp [indexField, indexOperand, BitVec.getLsbD_extractLsb', h7, hb]

@[simp] theorem flagOperand_flagField (b : Bool) : flagOperand (flagField b) = b := by cases b <;> decide

@[simp] theorem flagOnly_flagField (b : Bool) : flagOnly (flagField b) = true := by cases b <;> decide

theorem flagField_flagOperand : ∀ d : BitVec 8, flagOnly d = true → flagField (flagOperand d) = d := by decide

@[simp] theorem modeOperand_modeField : ∀ m : BitVec 2, modeOperand (modeField m) = m := by decide

@[simp] theorem modeOnly_modeField : ∀ m : BitVec 2, modeOnly (modeField m) = true := by decide

theorem modeField_modeOperand : ∀ d : BitVec 8, modeOnly d = true → modeField (modeOperand d) = d := by decide

theorem inFormat_ok {op : BitVec 8} {ok : Bool} {i j : Instr} :
    inFormat op ok i = .ok j ↔ ok = true ∧ i = j := by
  unfold inFormat; split <;> simp_all

end Sys2Proof
end

