-- ==== Sys2Proof/Laws/Exec.lean ====
section
/-! SUPPORT. exec as one equation, and step by its cases. -/

namespace Sys2Proof.Machine

/-- Every meaning is its operation, ignored while FATAL is not 0. -/
theorem exec_eq (i : Instr) (s : State) : exec i s = .next (unlessFatal (perform respond i) s) := by
  cases i <;> rfl

theorem exec_of_ready (i : Instr) {s : State} (h : s.fatal = none) : exec i s = .next (perform respond i s) := by
  rw [exec_eq, unlessFatal_of_none h]

theorem exec_of_faulted (i : Instr) {s : State} (h : s.fatal ≠ none) : exec i s = .next s := by
  rw [exec_eq, unlessFatal_of_faulted h]

theorem step_of_empty {s : State} (h : s.port = []) : step s = .next s := by
  simp [step, takeWord, h]

theorem step_of_command {s : State} {w : CommandWord} {rest : List CommandWord} {i : Instr}
    (h : s.port = w :: rest) (hd : decode w = .ok i) : step s = exec i { s with port := rest } := by
  simp [step, takeWord, h, hd]

theorem step_of_illegal {s : State} {w : CommandWord} {rest : List CommandWord} {e : DecodeError}
    (h : s.port = w :: rest) (hd : decode w = .error e) : step s = execIllegal { s with port := rest } := by
  simp [step, takeWord, h, hd]

/-- A step answers a next state always: no word, a command, or an illegal word. -/
theorem step_cases (s : State) :
    (s.port = [] ∧ step s = .next s)
      ∨ (∃ w rest i, s.port = w :: rest ∧ decode w = .ok i ∧ step s = exec i { s with port := rest })
      ∨ (∃ w rest e, s.port = w :: rest ∧ decode w = .error e
          ∧ step s = .next (unlessFatal (raiseFatal .illegalCommand) { s with port := rest })) := by
  cases hp : s.port with
  | nil => exact .inl ⟨rfl, step_of_empty hp⟩
  | cons w rest =>
    cases hd : decode w with
    | ok i => exact .inr (.inl ⟨w, rest, i, rfl, hd, step_of_command hp hd⟩)
    | error e => exact .inr (.inr ⟨w, rest, e, rfl, hd, step_of_illegal hp hd⟩)

end Sys2Proof.Machine
end

