-- ==== Sys2Proof/Laws/Frames.lean ====
section
/-! SUPPORT. The fields the clock advance and the two shadow-register writes can change: every other field
stays. -/

namespace Sys2Proof.Machine

open Sys2Proof.Config

theorem SameButClock.trans {s t u : State} (h : SameButClock s t) (h' : SameButClock t u) : SameButClock s u := by
  unfold SameButClock at *
  rw [h'] ; rw [h]

theorem sameButClock_countSystemTick (s : State) : SameButClock s (countSystemTick s) := by
  unfold countSystemTick; split <;> rfl

theorem sameButClock_advanceHsOutput (s : State) : SameButClock s (advanceHsOutput s) := by
  unfold advanceHsOutput; split
  · rfl
  · split <;> rfl

theorem sameButClock_advanceHighSpeed (s : State) : SameButClock s (advanceHighSpeed s) := by
  unfold advanceHighSpeed; split
  · exact (show SameButClock s { s with tickhs := true, hscnt := 0 } from rfl).trans
      ((sameButClock_countSystemTick _).trans (sameButClock_advanceHsOutput _))
  · rfl

theorem sameButClock_advanceDrift (s : State) : SameButClock s (advanceDrift s) := by
  unfold advanceDrift; dsimp only; split
  · rfl
  · split <;> rfl

theorem sameButClock_advanceLsOutput (s : State) : SameButClock s (advanceLsOutput s) := by
  unfold advanceLsOutput; split
  · rfl
  · split <;> rfl

theorem sameButClock_advanceInterval (s : State) : SameButClock s (advanceInterval s) := by
  unfold advanceInterval; split
  · exact (show SameButClock s { s with
        tickls := true, lscnt := 0,
        lslen := BitVec.ofInt 32 ((lsNom s.desc : Int) + correctionCycles s.lscorr), lscorr := .zero } from
      rfl).trans (sameButClock_advanceLsOutput _)
  · rfl

theorem sameButClock_advanceLowSpeed (s : State) : SameButClock s (advanceLowSpeed s) := by
  unfold advanceLowSpeed; split
  · exact (sameButClock_advanceDrift s).trans (sameButClock_advanceInterval _)
  · rfl

/-- CLKADV writes the clock generator's own state and its flags, nothing else (R200). -/
theorem sameButClock_clockAdvance (s : State) : SameButClock s (clockAdvance s) :=
  (show SameButClock s (latchResetPulses s) from rfl).trans
    ((sameButClock_advanceHighSpeed _).trans (sameButClock_advanceLowSpeed _))

/-- A state that differs from `s` in the bitmap, the counter, the flags and the shadow registers alone. -/
def SameButLines (s t : State) : Prop :=
  t = { s with act := t.act, cnt := t.cnt, len := t.len, ie := t.ie, irq := t.irq }

theorem SameButLines.refl (s : State) : SameButLines s s := rfl

theorem SameButLines.trans {s t u : State} (h : SameButLines s t) (h' : SameButLines t u) : SameButLines s u := by
  unfold SameButLines at *
  rw [h'] ; rw [h]

theorem sameButLines_activate (l : Line) (s : State) : SameButLines s (activate l s) := by
  unfold activate; split <;> rfl

theorem sameButLines_deactivate (l : Line) (s : State) : SameButLines s (deactivate l s) := by
  unfold deactivate; split <;> rfl

theorem sameButLines_tryRaise (l : Line) (s : State) : SameButLines s (tryRaise l s) := by
  rcases tryRaise_cases l s with ⟨-, h⟩ | ⟨-, h⟩ <;> rw [h]
  · exact (show SameButLines s (setPending _ true s) from rfl).trans (sameButLines_activate l _)
  · rfl

theorem sameButLines_resetInt (l : Line) (s : State) : SameButLines s (resetInt l s) :=
  (show SameButLines s (setPending _ false s) from rfl).trans (sameButLines_deactivate l _)

theorem sameButLines_eachShadowBit {f : Nat → State → State} (hf : ∀ k t, SameButLines t (f k t)) (s : State) :
    SameButLines s (eachShadowBit f s) :=
  eachShadowBit_keeps (P := SameButLines s) (fun k t _ _ h => h.trans (hf k t)) (.refl s)

theorem sameButLines_writeIe (new : BitVec 24) (s : State) : SameButLines s (writeIe new s) := by
  unfold writeIe
  dsimp only
  have h : SameButLines s (eachShadowBit
      (fun k => setEnabled (lineOfBit k) ((new.setWidth 22 &&& ieValid s.desc).getLsbD k))
      { s with ie := new.setWidth 22 &&& ieValid s.desc }) :=
    (show SameButLines s { s with ie := new.setWidth 22 &&& ieValid s.desc } from rfl).trans
      (sameButLines_eachShadowBit (fun k t => show SameButLines t (setEnabled _ _ t) from rfl) _)
  split
  · split
    · exact h.trans (sameButLines_activate 3 _)
    · exact h
  · exact h.trans (sameButLines_deactivate 3 _)

theorem sameButLines_writeIrq (new : BitVec 24) (s : State) : SameButLines s (writeIrq new s) := by
  unfold writeIrq
  dsimp only
  have h : SameButLines s (eachShadowBit
      (fun k => if (new.setWidth 22 &&& irqValid s.desc).getLsbD k then tryRaise (lineOfBit k)
        else resetInt (lineOfBit k))
      { s with irq := new.setWidth 22 &&& irqValid s.desc }) := by
    refine (show SameButLines s { s with irq := new.setWidth 22 &&& irqValid s.desc } from rfl).trans
      (sameButLines_eachShadowBit (fun k t => ?_) _)
    split
    · exact sameButLines_tryRaise _ t
    · exact sameButLines_resetInt _ t
  split
  · split
    · exact h.trans (sameButLines_activate 3 _)
    · exact h
  · exact h.trans (sameButLines_deactivate 3 _)

end Sys2Proof.Machine
end

