-- ==== Sys2Proof/Laws/PerInstr.lean ====
section
/-! SUPPORT. Family RowMatch, one lemma per command: its word selects the row of the opcode map that bears its
mnemonic (R84), whatever its operands. -/

namespace Sys2Proof

/-- `&` of two words, field by field. -/
theorem commandWord_and (op op' : BitVec 8) (a a' : BitVec 16) (d d' : BitVec 8) :
    commandWord op a d &&& commandWord op' a' d' = commandWord (op &&& op') (a &&& a') (d &&& d') := by
  apply BitVec.eq_of_getLsbD_eq
  intro i hi
  simp only [BitVec.getLsbD_and, getLsbD_commandWord _ _ _ _ hi]
  split
  · rfl
  · split <;> rfl

/-- An index field has no bit above 6. -/
theorem indexField_and (l : Line) : indexField l &&& 0xFF80#16 = 0#16 := by
  apply BitVec.eq_of_getLsbD_eq
  intro i hi
  rw [BitVec.getLsbD_and, indexField, BitVec.getLsbD_setWidth]
  by_cases h : i < 7
  · have : ∀ i < 7, (0xFF80#16).getLsbD i = false := by decide
    simp [this i h]
  · simp [BitVec.getLsbD_of_ge l i (by omega)]

end Sys2Proof

namespace Sys2Proof.Laws

/-- The word of the command selects a row with the command's mnemonic (R84). -/
def RowMatch.Statement (i : Instr) : Prop :=
  ∃ r ∈ opcodeMap, r.mnemonic = i.mnemonic ∧ r.selects (encode i) = true

/-- A command without operand is its row's word. -/
theorem rowMatch_of_fixed {i : Instr} (h : (opcodeMap.any fun r =>
    decide (r.mnemonic = i.mnemonic) && r.selects (encode i)) = true) : RowMatch.Statement i := by
  obtain ⟨r, hr, h⟩ := List.any_eq_true.mp h
  simp only [Bool.and_eq_true, decide_eq_true_eq] at h
  exact ⟨r, hr, h.1, h.2⟩

/-- A row whose match and mask are given as fields, and a word given as fields. -/
theorem rowMatch_of_fields {i : Instr} (r : OpcodeRow) (hr : r ∈ opcodeMap) (hn : r.mnemonic = i.mnemonic)
    {op mop : BitVec 8} {a ma : BitVec 16} {d md : BitVec 8} (he : encode i = commandWord op a d)
    (hmask : r.maskBits = commandWord mop ma md)
    (hmatch : r.matchBits = commandWord (op &&& mop) (a &&& ma) (d &&& md)) : RowMatch.Statement i :=
  ⟨r, hr, hn, by rw [OpcodeRow.selects, he, hmask, commandWord_and, hmatch]; exact beq_self_eq_true _⟩

theorem RowMatch.cycle : RowMatch.Statement .cycle := rowMatch_of_fixed (by decide)

theorem RowMatch.rst : RowMatch.Statement .rst := rowMatch_of_fixed (by decide)

theorem RowMatch.brk : RowMatch.Statement .brk := rowMatch_of_fixed (by decide)

theorem RowMatch.accept : RowMatch.Statement .accept := rowMatch_of_fixed (by decide)

theorem RowMatch.raiseRst : RowMatch.Statement .raiseRst := rowMatch_of_fixed (by decide)

theorem RowMatch.raiseBrk : RowMatch.Statement .raiseBrk := rowMatch_of_fixed (by decide)

theorem RowMatch.raiseEmu : RowMatch.Statement .raiseEmu := rowMatch_of_fixed (by decide)

theorem RowMatch.raiseNmi : RowMatch.Statement .raiseNmi := rowMatch_of_fixed (by decide)

theorem RowMatch.raiseMi (index : Line) : RowMatch.Statement (.raiseMi index) :=
  rowMatch_of_fields ⟨"RAISE.MI", 0x14000000#32, 0xFFFF80FF#32⟩ (by decide) rfl
    (mop := 0xFF#8) (ma := 0xFF80#16) (md := 0xFF#8) rfl (by decide) (by rw [indexField_and]; decide)

theorem RowMatch.raiseSw (index : Line) : RowMatch.Statement (.raiseSw index) :=
  rowMatch_of_fields ⟨"RAISE.SW", 0x15000000#32, 0xFFFF80FF#32⟩ (by decide) rfl
    (mop := 0xFF#8) (ma := 0xFF80#16) (md := 0xFF#8) rfl (by decide) (by rw [indexField_and]; decide)

theorem RowMatch.clrNmi : RowMatch.Statement .clrNmi := rowMatch_of_fixed (by decide)

theorem RowMatch.clrMi (index : Line) : RowMatch.Statement (.clrMi index) :=
  rowMatch_of_fields ⟨"CLR.MI", 0x19000000#32, 0xFFFF80FF#32⟩ (by decide) rfl
    (mop := 0xFF#8) (ma := 0xFF80#16) (md := 0xFF#8) rfl (by decide) (by rw [indexField_and]; decide)

theorem RowMatch.reqNmi : RowMatch.Statement .reqNmi := rowMatch_of_fixed (by decide)

theorem RowMatch.lineEn (index : Line) (flag : Bool) : RowMatch.Statement (.lineEn index flag) :=
  rowMatch_of_fields ⟨"LINE.EN", 0x20000000#32, 0xFFFF80FE#32⟩ (by decide) rfl
    (mop := 0xFF#8) (ma := 0xFF80#16) (md := 0xFE#8) rfl (by decide)
    (by rw [indexField_and]; cases flag <;> decide)

theorem RowMatch.lineTry (index : Line) : RowMatch.Statement (.lineTry index) :=
  rowMatch_of_fields ⟨"LINE.TRY", 0x21000000#32, 0xFFFF80FF#32⟩ (by decide) rfl
    (mop := 0xFF#8) (ma := 0xFF80#16) (md := 0xFF#8) rfl (by decide) (by rw [indexField_and]; decide)

theorem RowMatch.lineClr (index : Line) : RowMatch.Statement (.lineClr index) :=
  rowMatch_of_fields ⟨"LINE.CLR", 0x22000000#32, 0xFFFF80FF#32⟩ (by decide) rfl
    (mop := 0xFF#8) (ma := 0xFF80#16) (md := 0xFF#8) rfl (by decide) (by rw [indexField_and]; decide)

theorem RowMatch.wr (addr : Addr) (data : Byte) : RowMatch.Statement (.wr addr data) :=
  rowMatch_of_fields ⟨"WR", 0x30000000#32, 0xFF000000#32⟩ (by decide) rfl
    (mop := 0xFF#8) (ma := 0#16) (md := 0#8) rfl (by decide)
    (by rw [BitVec.and_zero, BitVec.and_zero]; decide)

theorem RowMatch.rd (addr : Addr) : RowMatch.Statement (.rd addr) :=
  rowMatch_of_fields ⟨"RD", 0x31000000#32, 0xFF0000FF#32⟩ (by decide) rfl
    (mop := 0xFF#8) (ma := 0#16) (md := 0xFF#8) rfl (by decide) (by rw [BitVec.and_zero]; decide)

theorem RowMatch.runmode (mode : BitVec 2) : RowMatch.Statement (.runmode mode) :=
  rowMatch_of_fields ⟨"RUNMODE", 0x40000000#32, 0xFFFFFFFC#32⟩ (by decide) rfl
    (mop := 0xFF#8) (ma := 0xFFFF#16) (md := 0xFC#8) rfl (by decide) (by revert mode; decide)

theorem RowMatch.miblk (flag : Bool) : RowMatch.Statement (.miblk flag) :=
  rowMatch_of_fields ⟨"MIBLK", 0x41000000#32, 0xFFFFFFFE#32⟩ (by decide) rfl
    (mop := 0xFF#8) (ma := 0xFFFF#16) (md := 0xFE#8) rfl (by decide) (by cases flag <;> decide)

end Sys2Proof.Laws
end

