-- ==== Sys2Proof/Laws/Quiet.lean ====
section
/-! SUPPORT. What the loops over peripherals do when every response is the empty one, and what every response
keeps otherwise. -/

namespace Sys2Proof.Machine

open Sys2Proof.Config

/-- A loop that only emits hooks appends their events in order, when the responses are empty. -/
theorem eachFrom_hook_quiet (ev : Nat → Peripheral → State → Option Event)
    (hev : ∀ n p s e, ev n p (emit e s) = ev n p s) (n : Nat) (ps : List Peripheral) {s : State}
    (hf : s.fatal = none) (hr : s.responses = []) :
    eachFrom (fun n p s => hookIfDue respond (ev n p s) s) n ps s
      = { s with events := s.events ++ (ps.zipIdx n).filterMap (fun pn => ev pn.2 pn.1 s) } := by
  induction ps generalizing n s with
  | nil => simp [eachFrom]
  | cons p ps ih =>
    rw [eachFrom, unlessFatal_of_none hf]
    cases he : ev n p s with
    | none => rw [ih _ (by exact hf) (by exact hr)]; simp [hookIfDue, he]
    | some e =>
      rw [show hookIfDue respond (some e) s = emit e s from hook_quiet hr]
      rw [ih _ (by exact hf) (by exact hr)]
      simp only [hev, List.zipIdx_cons, List.filterMap_cons, he]
      simp [emit]

/-- `for p in 0 .. P-1: emit H(p)` with empty responses: the hooks in ascending index and nothing else (R8). -/
theorem eachPeripheral_hook_quiet (ev : Nat → Event) {s : State} (hf : s.fatal = none) (hr : s.responses = []) :
    eachPeripheral (fun n _ => hook respond (ev n)) s
      = { s with events := s.events ++ (List.range s.desc.periphs.length).map ev } := by
  have h := eachFrom_hook_quiet (fun n _ _ => some (ev n)) (fun _ _ _ _ => rfl) 0 s.desc.periphs hf hr
  have hz : ∀ (l : List Peripheral), (l.zipIdx 0).filterMap (fun pn => some (ev pn.2))
      = (List.range l.length).map ev := by
    intro l
    have h1 : (l.zipIdx 0).map (fun pn => pn.2) = List.range l.length :=
      (List.zipIdx_map_snd 0 l).trans (List.range_eq_range' ..).symm
    rw [← h1, List.map_map, List.filterMap_eq_map']
    rfl
  rw [hz] at h
  exact h

/-- What popping a response, an illegal word and every command keep, whatever its responder as long as that
keeps it too, every response keeps. -/
theorem respondWithin_keeps {P : State → Prop}
    (hpop : ∀ s ws rest, s.responses = ws :: rest → P s → P { s with responses := rest })
    (hill : ∀ s, P s → P (raiseFatal .illegalCommand s))
    (hperf : ∀ r : Responder, (∀ s, P s → P (r s)) → ∀ i s, s.fatal = none → P s → P (perform r i s))
    (n : Nat) {s : State} (h : P s) : P (respondWithin n s) := by
  induction n generalizing s with
  | zero => exact h
  | succ n ih =>
    unfold respondWithin
    split
    · exact h
    · next ws rest heq =>
      refine inOrder_keeps (fun f hf t htf ht => ?_) (hpop s ws rest heq h)
      obtain ⟨w, -, rfl⟩ := List.mem_map.mp hf
      unfold performWord
      split
      · exact hperf _ (fun s hs => ih hs) _ t htf ht
      · exact hill t ht

/-- The same of a whole step, for a property that does not look at the command port. -/
theorem step_keeps {P : State → Prop}
    (hport : ∀ s rest, P s → P { s with port := rest })
    (hpop : ∀ s ws rest, s.responses = ws :: rest → P s → P { s with responses := rest })
    (hill : ∀ s, P s → P (raiseFatal .illegalCommand s))
    (hperf : ∀ r : Responder, (∀ s, P s → P (r s)) → ∀ i s, s.fatal = none → P s → P (perform r i s))
    {s t : State} (h : P s) (hst : step s = .next t) : P t := by
  have hresp : ∀ s, P s → P (respond s) := fun s hs => respondWithin_keeps hpop hill hperf _ hs
  have hun : ∀ f : State → State, (∀ s, s.fatal = none → P s → P (f s)) → ∀ s, P s → P (unlessFatal f s) := by
    intro f hf s hs
    by_cases hn : s.fatal = none
    · rw [unlessFatal_of_none hn]; exact hf s hn hs
    · rw [unlessFatal_of_faulted hn]; exact hs
  rcases step_cases s with ⟨-, e⟩ | ⟨w, rest, i, -, -, e⟩ | ⟨w, rest, e', -, -, e⟩
  · rw [e] at hst; cases hst; exact h
  · rw [e, exec_eq] at hst; cases hst
    exact hun _ (fun s hs h => hperf _ hresp i s hs h) _ (hport s rest h)
  · rw [e] at hst; cases hst
    exact hun _ (fun s _ h => hill s h) _ (hport s rest h)

end Sys2Proof.Machine
end

