-- ==== Sys2Proof/Laws/Responses.lean ====
section
/-! SUPPORT. The loops over peripherals with any responses: where the first fatal error ends them. -/

namespace Sys2Proof.Machine

open Sys2Proof.Config

@[simp] theorem afterEvents_zero (ev : Nat → State → Option Event) (s : State) : afterEvents ev 0 s = s := rfl

/-- One more peripheral: its event, if one is due, and the response to it. -/
theorem afterEvents_succ (ev : Nat → State → Option Event) (n : Nat) (s : State) :
    afterEvents ev (n + 1) s = hookIfDue respond (ev n (afterEvents ev n s)) (afterEvents ev n s) := by
  rw [afterEvents]
  cases ev n (afterEvents ev n s) <;> rfl

/-- An event due to the peripheral of an index, given for the peripheral itself. -/
abbrev byIndex (ps : List Peripheral) (ev : Nat → Peripheral → State → Option Event) (n : Nat) (s : State) :
    Option Event := (ps[n]?).bind (fun p => ev n p s)

/-- The rest of a loop over peripherals, from the state after the first `n`: it runs to the end when no fatal
error stands, and ends at the first one. -/
theorem eachFrom_rest (ev : Nat → Peripheral → State → Option Event) (all rest : List Peripheral) (n : Nat)
    (s : State) (hall : all.drop n = rest) (h0 : (afterEvents (byIndex all ev) n s).fatal = none) :
    (NoFatalThrough (byIndex all ev) (n + rest.length) s →
        eachFrom (fun n p s => hookIfDue respond (ev n p s) s) n rest (afterEvents (byIndex all ev) n s)
          = afterEvents (byIndex all ev) (n + rest.length) s)
      ∧ (∀ k, n ≤ k → k < n + rest.length → FirstFatalAt (byIndex all ev) k s →
        eachFrom (fun n p s => hookIfDue respond (ev n p s) s) n rest (afterEvents (byIndex all ev) n s)
          = afterEvents (byIndex all ev) (k + 1) s) := by
  induction rest generalizing n with
  | nil => exact ⟨fun _ => rfl, fun k h1 h2 => absurd h2 (by simpa using h1)⟩
  | cons p rest ih =>
    have hlen : n < all.length := by
      rcases Nat.lt_or_ge n all.length with h | h
      · exact h
      · rw [List.drop_eq_nil_of_le h] at hall; cases hall
    rw [List.drop_eq_getElem_cons hlen] at hall
    obtain ⟨hp, hrest⟩ := List.cons.inj hall
    have hstep : unlessFatal (fun s => hookIfDue respond (ev n p s) s) (afterEvents (byIndex all ev) n s)
        = afterEvents (byIndex all ev) (n + 1) s := by
      rw [unlessFatal_of_none h0, afterEvents_succ]
      simp only [byIndex, List.getElem?_eq_getElem hlen, Option.bind_some, hp]
    rw [eachFrom, hstep, List.length_cons]
    by_cases h1 : (afterEvents (byIndex all ev) (n + 1) s).fatal = none
    · have ih := ih (n + 1) hrest h1
      refine ⟨fun h => ?_, fun k hk hk' hf => ?_⟩
      · rw [show n + (rest.length + 1) = n + 1 + rest.length by omega] at h ⊢
        exact ih.1 h
      · rcases Nat.eq_or_lt_of_le hk with rfl | hlt
        · exact absurd h1 hf.2
        · exact ih.2 k hlt (by omega) hf
    · refine ⟨fun h => absurd (h (n + 1) (by omega)) h1, fun k hk hk' hf => ?_⟩
      rcases Nat.eq_or_lt_of_le hk with rfl | hlt
      · exact eachFrom_of_faulted _ _ _ h1
      · exact absurd (hf.1 (n + 1) hlt) h1

/-- A loop over all peripherals that only emits events: the state after all of them when no fatal error stands,
else the state right after the first. -/
theorem eachPeripheral_events (ev : Nat → Peripheral → State → Option Event) (s : State) (h0 : s.fatal = none) :
    (NoFatalThrough (byIndex s.desc.periphs ev) s.desc.periphs.length s →
        eachPeripheral (fun n p s => hookIfDue respond (ev n p s) s) s
          = afterEvents (byIndex s.desc.periphs ev) s.desc.periphs.length s)
      ∧ (∀ k, k < s.desc.periphs.length → FirstFatalAt (byIndex s.desc.periphs ev) k s →
        eachPeripheral (fun n p s => hookIfDue respond (ev n p s) s) s
          = afterEvents (byIndex s.desc.periphs ev) (k + 1) s) := by
  have h := eachFrom_rest ev s.desc.periphs s.desc.periphs 0 s rfl h0
  simp only [Nat.zero_add] at h
  exact ⟨h.1, fun k hk hf => h.2 k (Nat.zero_le k) hk hf⟩

/-- A response of a first word and the rest: the word, then the rest unless it left a fatal error. -/
theorem runResponse_cons (r : Responder) (w : CommandWord) (ws : Response) (s : State) :
    runResponse r (w :: ws) s = runResponse r ws (unlessFatal (performWord r w) s) := rfl

/-- A fatal error keeps a response from doing anything. -/
theorem runResponse_of_faulted (r : Responder) (ws : Response) {s : State} (h : s.fatal ≠ none) :
    runResponse r ws s = s := inOrder_of_faulted _ h

end Sys2Proof.Machine
end

