-- ==== Sys2Proof/Machine/Assembler.lean ====
section
/-! DEFINITION. The text form of commands (R87): one command a line or separated by `;`, a comment from `#`
to the end of the line, port values in brackets before a command. The block never sees this text. What R87 leaves
open (an operand too large for its field, blanks, an unknown name) is settled as log 26 says: DESIGN CHOICE. -/

namespace Sys2Proof.Machine

open Sys2Proof.Config

/-- The port values a bracket names, `[elevel=1 mie=1]` (R87); either may be left out. -/
structure PortNote where
  elevel : Option (BitVec 2) := none
  mie    : Option Bool := none
deriving DecidableEq, Repr

/-- One command of the text with the port values before it, expanded (R87, R88). -/
structure AsmItem where
  ports    : PortNote
  commands : List Instr
deriving DecidableEq, Repr

/-- The pieces of a text between occurrences of a character. -/
def splitOnChar (c : Char) : List Char → List (List Char)
  | [] => [[]]
  | x :: rest =>
    if x = c then [] :: splitOnChar c rest
    else
      match splitOnChar c rest with
      | [] => [[x]]
      | piece :: pieces => (x :: piece) :: pieces

/-- A blank of the text. -/
def isBlank (c : Char) : Bool := c == ' ' || c == '\t'

/-- A text without the blanks at its two ends. -/
def trimBlanks (cs : List Char) : List Char :=
  ((cs.dropWhile isBlank).reverse.dropWhile isBlank).reverse

/-- The words of a text: its pieces between blanks. -/
def splitWords (cs : List Char) : List (List Char) :=
  (splitOnChar ' ' (cs.map (fun c => if isBlank c then ' ' else c))).filter (fun w => !w.isEmpty)

/-- The value of a digit in base 10 or 16. -/
def digitValue (base : Nat) (c : Char) : Option Nat :=
  let v :=
    if '0' ≤ c ∧ c ≤ '9' then c.toNat - '0'.toNat
    else if 'A' ≤ c ∧ c ≤ 'F' then c.toNat - 'A'.toNat + 10
    else if 'a' ≤ c ∧ c ≤ 'f' then c.toNat - 'a'.toNat + 10
    else base
  if v < base then some v else none

/-- The number a non-empty run of digits spells. -/
def digitsValue (base : Nat) (cs : List Char) : Option Nat :=
  if cs.isEmpty then none
  else cs.foldl (fun acc c => do return (← acc) * base + (← digitValue base c)) (some 0)

/-- A number, decimal or `0x` hexadecimal (R87). -/
def numberValue (cs : List Char) : Option Nat :=
  match cs with
  | '0' :: 'x' :: rest => digitsValue 16 rest
  | _ => digitsValue 10 cs

/-- A symbolic register name (R87). -/
def symbolValue (d : Descriptor) (cs : List Char) : Option Nat :=
  if cs = "A_IE".toList then some d.aIe.toNat
  else if cs = "A_IRQ".toList then some d.aIrq.toNat
  else if cs = "A_OSCCFG".toList then some d.aOsccfg.toNat
  else if cs = "A_LSRST".toList then some d.aLsrst.toNat
  else if cs = "A_HSRST".toList then some d.aHsrst.toNat
  else if cs = "A_ADJ".toList then some d.aAdj.toNat
  else if cs = "A_BLKCON".toList then some d.aBlkcon.toNat
  else none

/-- An operand: a number, a symbol, or a symbol with a byte offset `+k` (R87). -/
def operandValue (d : Descriptor) (cs : List Char) : Option Nat :=
  match splitOnChar '+' (trimBlanks cs) with
  | [x] => (numberValue x).or (symbolValue d x)
  | [x, k] => do return (← symbolValue d x) + (← numberValue k)
  | _ => none

/-- An operand that must fit its field. -/
def fits (w n : Nat) : Option (BitVec w) := if n < 2 ^ w then some (BitVec.ofNat w n) else none

/-- A command or pseudo-command from its mnemonic and operands, in the order of R87 (R84, R88). -/
def buildCommand (d : Descriptor) (m : List Char) (ops : List Nat) : Option (List Instr) :=
  let plain (name : String) (i : Instr) : Option (List Instr) :=
    if m = name.toList ∧ ops = [] then some [i] else none
  let indexed (name : String) (f : Line → Instr) : Option (List Instr) :=
    match ops with
    | [l] => if m = name.toList then (fits 7 l).map (fun l => [f l]) else none
    | _ => none
  let valued (name : String) (f : Nat → Option Pseudo) : Option (List Instr) :=
    match ops with
    | [v] => if m = name.toList then (f v).map (expand d) else none
    | _ => none
  let bare (name : String) (p : Pseudo) : Option (List Instr) :=
    if m = name.toList ∧ ops = [] then some (expand d p) else none
  let two : Option (List Instr) :=
    match ops with
    | [a, v] =>
      if m = "LINE.EN".toList then do return [.lineEn (← fits 7 a) ((← fits 1 v) == 1)]
      else if m = "WR".toList then do return [.wr (← fits 16 a) (← fits 8 v)]
      else if m = "WR16".toList then do return expand d (.wr16 (← fits 16 a) (← fits 16 v).toNat)
      else if m = "WR24".toList then do return expand d (.wr24 (← fits 16 a) (← fits 24 v).toNat)
      else none
    | _ => none
  let one : Option (List Instr) :=
    match ops with
    | [v] =>
      if m = "RD".toList then do return [.rd (← fits 16 v)]
      else if m = "RUNMODE".toList then do return [.runmode (← fits 2 v)]
      else if m = "MIBLK".toList then do return [.miblk ((← fits 1 v) == 1)]
      else none
    | _ => none
  [ plain "CYCLE" .cycle, plain "RST" .rst, plain "BRK" .brk, plain "ACCEPT" .accept,
    plain "RAISE.RST" .raiseRst, plain "RAISE.BRK" .raiseBrk, plain "RAISE.EMU" .raiseEmu,
    plain "RAISE.NMI" .raiseNmi, indexed "RAISE.MI" .raiseMi, indexed "RAISE.SW" .raiseSw,
    plain "CLR.NMI" .clrNmi, indexed "CLR.MI" .clrMi, plain "REQ.NMI" .reqNmi,
    indexed "LINE.TRY" .lineTry, indexed "LINE.CLR" .lineClr, two, one,
    valued "WRIE" (fun v => some (.wrie v)), valued "WRIRQ" (fun v => some (.wrirq v)),
    valued "WRADJ" (fun v => (fits 16 v).map (fun v => .wradj v.toNat)),
    valued "CYCLES" (fun v => some (.cycles v)),
    valued "SWI" (fun v => (fits 6 v).map .swi),
    bare "STOP" .stop, bare "HALT" .halt, bare "RUN" .run ].findSome? id

/-- The operands after a mnemonic, separated by commas. -/
def operandList (d : Descriptor) (cs : List Char) : Option (List Nat) :=
  if (trimBlanks cs).isEmpty then some []
  else (splitOnChar ',' cs).mapM (operandValue d)

/-- One word of a bracket: `elevel=n` or `mie=b`. -/
def portWord (note : PortNote) (w : List Char) : Option PortNote :=
  match splitOnChar '=' w with
  | [name, v] =>
    if name = "elevel".toList then do return { note with elevel := some (← fits 2 (← numberValue v)) }
    else if name = "mie".toList then do return { note with mie := some ((← fits 1 (← numberValue v)) == 1) }
    else none
  | _ => none

/-- The port values in brackets before a command, if any, and the rest of the text (R87). -/
def portNote (cs : List Char) : Option (PortNote × List Char) :=
  match cs with
  | '[' :: rest =>
    match splitOnChar ']' rest with
    | [inside, after] => do return (← (splitWords inside).foldlM portWord {}, after)
    | _ => none
  | _ => some ({}, cs)

/-- One command of the text (R87). -/
def assembleOne (d : Descriptor) (cs : List Char) : Option AsmItem := do
  let (note, body) ← portNote (trimBlanks cs)
  let body := trimBlanks body
  let mnemonic := body.takeWhile (fun c => !isBlank c)
  let ops ← operandList d (body.dropWhile (fun c => !isBlank c))
  return { ports := note, commands := ← buildCommand d mnemonic ops }

/-- The commands of one line, without its comment (R87). -/
def lineCommands (cs : List Char) : List (List Char) :=
  (splitOnChar ';' (cs.takeWhile (fun c => c != '#'))).filter (fun c => !(trimBlanks c).isEmpty)

/-- A text assembled: every command of every line, or none if one is not a command (R87). -/
def assemble (d : Descriptor) (text : String) : Option (List AsmItem) :=
  ((splitOnChar '\n' text.toList).flatMap lineCommands).mapM (assembleOne d)

end Sys2Proof.Machine
end

