-- ==== Sys2Proof/Tests/Slice0.lean ====
section
/-! SUPPORT. Our own tests. The expected results are those of spec/95_test_vectors.md (section in the comment)
or, where it has none, worked by hand from the rule named. The last part shows, for every statement with
hypotheses, a state and operands that meet them together, clause by clause at the edges of their ranges. -/

namespace Sys2Proof.Tests

open Sys2Proof Sys2Proof.Machine Sys2Proof.Config

/-! ### Helpers -/

/-- The next state, if that is the answer. -/
def nextOf : Host.Outcome State Fault Refusal → Option State
  | .next s => some s
  | .fault _ => none
  | .refused _ => none

/-- What a view shows of the state after a command. -/
def after {α : Type} (view : State → α) (i : Instr) (s : State) : Option α := (nextOf (exec i s)).map view

/-- A bitmap with the listed slots. -/
def slots (ls : List Nat) : BitVec 128 := ls.foldl (fun v l => v ||| BitVec.twoPow 128 l) 0

/-- Reset with the listed lines active in place of the reset line. -/
def active (ls : List Nat) : State := { State.reset with act := slots ls, cnt := BitVec.ofNat 8 ls.length }

/-- Nothing active: the state most vectors start from. -/
def idle : State := active []

/-- The bitmap and the counter. -/
def bitmap (s : State) : BitVec 128 × BitVec 8 := (s.act, s.cnt)

/-- The start of the vectors of section 4. -/
def arbiter (ls : List Nat) (elevel : BitVec 2) (mie miblk : Bool) : State :=
  { active ls with irq := 0x1FFF#22, runmode := .halted, miblk := miblk, coreports := { elevel := elevel, mie := mie } }

/-- Idle on another variant or with peripherals. -/
def idleOn (d : Descriptor) : State := { idle with desc := d }

/-- V12 with one peripheral of each kind, the last with a block bit. -/
def sixPeripherals : Descriptor :=
  standardDescriptor .v12 65536
    [{ domain := .none }, { domain := .ls }, { domain := .hs }, { domain := .sys }, { domain := .stopped },
     { domain := .hs, blkbit := some 1 }]

/-! ### Well-formed commands: one ill-formed term for each check -/

theorem test_wf_raiseMi_low : (Instr.raiseMi 3).wellFormed defaultDescriptor = false := by decide
theorem test_wf_raiseMi_high : (Instr.raiseMi 64).wellFormed defaultDescriptor = false := by decide
theorem test_wf_clrMi_low : (Instr.clrMi 3).wellFormed defaultDescriptor = false := by decide
theorem test_wf_clrMi_high : (Instr.clrMi 64).wellFormed defaultDescriptor = false := by decide
theorem test_wf_raiseSw : (Instr.raiseSw 63).wellFormed defaultDescriptor = false := by decide
theorem test_wf_lineEn_low : (Instr.lineEn 3 true).wellFormed defaultDescriptor = false := by decide
theorem test_wf_lineEn_high : (Instr.lineEn 16 true).wellFormed defaultDescriptor = false := by decide
theorem test_wf_lineTry_low : (Instr.lineTry 3).wellFormed defaultDescriptor = false := by decide
theorem test_wf_lineTry_high : (Instr.lineTry 16).wellFormed defaultDescriptor = false := by decide
theorem test_wf_lineClr_low : (Instr.lineClr 3).wellFormed defaultDescriptor = false := by decide
theorem test_wf_lineClr_high : (Instr.lineClr 16).wellFormed defaultDescriptor = false := by decide
theorem test_wf_runmode : (Instr.runmode 3).wellFormed defaultDescriptor = false := by decide
theorem test_wf_accepts :
    ([.raiseMi 4, .raiseMi 63, .clrMi 4, .clrMi 63, .raiseSw 64, .raiseSw 127, .lineEn 4 false, .lineTry 15,
      .lineClr 15, .runmode 2, .cycle, .wr 0xFFFF 0xFF].all (Instr.wellFormed defaultDescriptor)) = true := by
  decide

/-! ### Decoding, from section 2: one word for every constructor -/

theorem test_decode_cycle : decode 0x01000000#32 = .ok .cycle := by rfl
theorem test_decode_rst : decode 0x02000000#32 = .ok .rst := by rfl
theorem test_decode_brk : decode 0x03000000#32 = .ok .brk := by rfl
theorem test_decode_accept : decode 0x04000000#32 = .ok .accept := by rfl
theorem test_decode_raiseRst : decode 0x10000000#32 = .ok .raiseRst := by rfl
theorem test_decode_raiseBrk : decode 0x11000000#32 = .ok .raiseBrk := by rfl
theorem test_decode_raiseEmu : decode 0x12000000#32 = .ok .raiseEmu := by rfl
theorem test_decode_raiseNmi : decode 0x13000000#32 = .ok .raiseNmi := by rfl
theorem test_decode_raiseMi : decode 0x14000400#32 = .ok (.raiseMi 4) := by rfl
theorem test_decode_raiseSw : decode 0x15007F00#32 = .ok (.raiseSw 127) := by rfl
theorem test_decode_clrNmi : decode 0x18000000#32 = .ok .clrNmi := by rfl
theorem test_decode_clrMi : decode 0x19003F00#32 = .ok (.clrMi 63) := by rfl
theorem test_decode_reqNmi : decode 0x1A000000#32 = .ok .reqNmi := by rfl
theorem test_decode_lineEn : decode 0x20000501#32 = .ok (.lineEn 5 true) := by rfl
theorem test_decode_lineEn_clear : decode 0x20000500#32 = .ok (.lineEn 5 false) := by rfl
theorem test_decode_lineTry : decode 0x21000500#32 = .ok (.lineTry 5) := by rfl
theorem test_decode_lineClr : decode 0x22000500#32 = .ok (.lineClr 5) := by rfl
theorem test_decode_wr : decode 0x30F01004#32 = .ok (.wr 0xF010 0x04) := by rfl
theorem test_decode_rd : decode 0x31F01400#32 = .ok (.rd 0xF014) := by rfl
theorem test_decode_runmode : decode 0x40000001#32 = .ok (.runmode 1) := by rfl
theorem test_decode_miblk : decode 0x41000001#32 = .ok (.miblk true) := by rfl
theorem test_decode_unassigned :
    decode 0x00000000#32 = .error (.unassignedOpcode 0x00) ∧ decode 0x05000000#32 = .error (.unassignedOpcode 0x05)
      ∧ decode 0xFFFFFFFF#32 = .error (.unassignedOpcode 0xFF) := ⟨rfl, rfl, rfl⟩
theorem test_decode_reserved :
    decode 0x01000001#32 = .error (.reservedField 0x01) ∧ decode 0x14008000#32 = .error (.reservedField 0x14)
      ∧ decode 0x14000501#32 = .error (.reservedField 0x14) ∧ decode 0x1500C000#32 = .error (.reservedField 0x15)
      ∧ decode 0x20000502#32 = .error (.reservedField 0x20) ∧ decode 0x31F01001#32 = .error (.reservedField 0x31)
      ∧ decode 0x40000004#32 = .error (.reservedField 0x40) ∧ decode 0x41000002#32 = .error (.reservedField 0x41) :=
  ⟨rfl, rfl, rfl, rfl, rfl, rfl, rfl, rfl⟩
theorem test_encode_lineEn : encode (.lineEn 5 true) = 0x20000501#32 := by decide
theorem test_decodeTableWord : decodeTableWord 32 0x14000400 = some (.raiseMi 4) := by rfl
theorem test_decodeTableWord_long : decodeTableWord 32 0x101000000 = none := by rfl

/-! ### A step takes the presented word; power-on -/

/-- R45: the state after reset is what construction with empty responses ends in, with no peripheral to hook. -/
theorem test_reset_is_powerOn : nextOf (powerOn defaultDescriptor quietEnvironment) = some State.reset := by decide
theorem test_powerOn_badBit :
    (nextOf (powerOn (standardDescriptor .v12 65536 [{ domain := .hs, blkbit := some 8 }]) quietEnvironment)).map
      (·.fatal) = some (some .badBlockBit) := by decide
theorem test_powerOn_refuses_slow : powerOn (standardDescriptor .v12 32767 []) quietEnvironment
    = .refused .illegalDescriptor := by rfl
/-- The first command after reset: the reset line is delivered at level 0 (section 1.6, step 1). -/
theorem test_step_from_reset : (nextOf (step (State.reset.withFetchWord 32 0x01000000))).map
    (fun s => (bitmap s, s.events, s.port)) = some ((0, 0), [.raiseException 0 0], []) := by decide
/-- Section 2: an illegal word is `Fatal(4)` and a following RAISE.BRK is ignored. -/
theorem test_step_illegal : (nextOf (step (idle.withFetchWord 32 0xFFFFFFFF))).map
    (fun s => (s.fatal, bitmap s)) = some (some .illegalCommand, (0, 0)) := by decide
theorem test_fatal_ignores : after bitmap .raiseBrk { idle with fatal := some .illegalCommand } = some (0, 0) := by decide

/-! ### Raise and clear (section 3) -/

theorem test_raiseRst : after bitmap .raiseRst idle = some (slots [0], 1) := by decide
theorem test_raiseRst_again : after bitmap .raiseRst (active [0]) = some (slots [0], 1) := by decide
theorem test_raiseBrk : after bitmap .raiseBrk (active [0]) = some (slots [0, 1], 2) := by decide
theorem test_raiseEmu : after bitmap .raiseEmu (active [0, 1]) = some (slots [0, 1, 2], 3) := by decide
theorem test_raiseNmi : after (fun s => (bitmap s, s.irq)) .raiseNmi (active [0, 1, 2])
    = some ((slots [0, 1, 2, 3], 4), 0) := by decide
theorem test_raiseMi : after (fun s => (bitmap s, s.irq)) (.raiseMi 63) (active [4]) = some ((slots [4, 63], 2), 0) := by
  decide
theorem test_raiseMi_range : after (·.fatal) (.raiseMi 64) idle = some (some .badMaskableIndex) := by decide
theorem test_raiseSw : after bitmap (.raiseSw 64) (active [63]) = some (slots [63, 64], 2) := by decide
theorem test_raiseSw_range : after (·.fatal) (.raiseSw 63) idle = some (some .badSoftwareIndex) := by decide
theorem test_clrMi : after bitmap (.clrMi 63) (active [4, 63]) = some (slots [4], 1) := by decide
theorem test_clrMi_inactive : after bitmap (.clrMi 62) (active [4, 63]) = some (slots [4, 63], 2) := by decide
theorem test_clrNmi : after (fun s => (bitmap s, s.irq)) .clrNmi { active [3] with irq := 1 } = some ((0, 0), 1) := by
  decide
theorem test_reqNmi_masked : after (fun s => (bitmap s, s.irq)) .reqNmi idle = some ((0, 0), 1) := by decide
theorem test_reqNmi : after (fun s => (bitmap s, s.irq)) .reqNmi { idle with ie := 1 } = some ((slots [3], 1), 1) := by
  decide

/-- The start of section 1.8. -/
def scenarioC (elevel : BitVec 2) : State :=
  { active [5, 64] with ie := 5, irq := 4, len := 4, coreports := { elevel := elevel, mie := false } }

theorem test_brk_low : after (fun s => (bitmap s, s.ie, s.irq, s.len)) .brk (scenarioC 1)
    = some ((slots [1, 5, 64], 3), 5, 4, 4) := by decide
theorem test_brk_high : after (fun s => (bitmap s, s.ie, s.irq, s.len)) .brk (scenarioC 2)
    = some ((slots [0], 1), 0, 0, 0) := by decide
theorem test_rst : after (fun s => (bitmap s, s.ie, s.irq, s.len)) .rst (scenarioC 0)
    = some ((slots [0], 1), 0, 0, 0) := by decide
theorem test_rst_hooks : after (·.events) .rst (idleOn (standardDescriptor .v12 65536 [{ domain := .none }, { domain := .hs }]))
    = some [.resetPeriph 0, .resetPeriph 1] := by decide

/-! ### ACCEPT (section 4) -/

theorem test_accept_a3 : after (fun s => (s.events, bitmap s, s.irq, s.runmode)) .accept
    (arbiter [1, 2, 3, 4, 127] 3 true false)
    = some ([.diag .swiNested 127, .raiseException 1 127], (slots [1, 2, 3, 4], 4), 0x1FFF, .running) := by decide
theorem test_accept_a9 : after (fun s => (s.events, bitmap s, s.irq, s.runmode)) .accept
    (arbiter [4, 9, 63] 0 true false) = some ([.raiseException 1 4], (slots [9, 63], 2), 0x1FFD, .running) := by decide

/-! ### Interrupt Lines (section 6) and the shadow registers (section 5) -/

theorem test_lineEn : after (fun s => (s.len, s.ie, bitmap s)) (.lineEn 5 true) { idle with irq := 4 }
    = some (4, 0, (0, 0)) := by decide
theorem test_lineEn_off : after (fun s => (s.len, bitmap s)) (.lineEn 5 false) { active [5] with len := 4, irq := 4 }
    = some (0, (slots [5], 1)) := by decide
theorem test_lineTry_disabled : after (fun s => (s.irq, bitmap s)) (.lineTry 5) idle = some (4, (0, 0)) := by decide
theorem test_lineTry_enabled : after (fun s => (s.irq, bitmap s)) (.lineTry 24)
    { idleOn (standardDescriptor .v21 65536 []) with len := 0x200000 } = some (0x200000, (slots [24], 1)) := by decide
theorem test_lineClr : after (fun s => (s.irq, bitmap s)) (.lineClr 5) { active [5] with irq := 4 }
    = some (0, (0, 0)) := by decide
theorem test_lineClr_range : after (·.fatal) (.lineClr 127) idle = some (some .badLineHandle) := by decide
set_option maxRecDepth 2000 in
/-- Section 5, step 3: bit 2 written 0 withdraws line 5, bit 3 stays pending. -/
theorem test_wr_irq : after (fun s => (s.irq, bitmap s)) (.wr 0xF014 0x08) { active [5] with ie := 4, len := 4, irq := 0xC }
    = some (8, (0, 0)) := by decide
/-- Section 1.9, step 2: unmasking the remembered non-maskable request. -/
theorem test_wr_ie : after (fun s => (s.ie, s.irq, bitmap s)) (.wr 0xF010 0x01) { idle with irq := 1 }
    = some (1, 1, (slots [3], 1)) := by decide
/-- Section 5, step 10. -/
theorem test_rd : after (·.events) (.rd 0xF015) { idle with irq := 0x1F08 } = some [.readData 0xF015 0x1F] := by decide
theorem test_rd_miss : after (·.events) (.rd 0xF012) idle = some [.busMiss 0xF012] := by decide

/-! ### The scheduler, the run mode, the block -/

/-- Section 1.7, run B1, cycle 2: delivery, and a Step in the same cycle. -/
theorem test_cycle_delivers : after (fun s => (s.events, s.irq, bitmap s, s.incycle)) .cycle
    { active [5] with irq := 4, len := 4, ie := 4, syscnt := 1, coreports := { elevel := 0, mie := true } }
    = some ([.raiseException 1 5, .step], 0, (0, 0), false) := by decide
/-- R233: the first cycle with HSDIV = 1, low-speed part off: NONE and HS tick, then TickAfterInterrupts to all. -/
theorem test_cycle_dispatch : after (·.events) .cycle { idleOn sixPeripherals with blkcon := 2 }
    = some ([.tick 0, .tick 2] ++ (List.range 6).map .tickAfterInterrupts) := by decide
theorem test_runmode : after (·.runmode) (.runmode 1) idle = some .halted := by decide
theorem test_runmode_unused : after (fun s => (s.fatal, s.runmode)) (.runmode 3) idle
    = some (some .illegalCommand, .running) := by decide
theorem test_miblk : after (·.miblk) (.miblk true) idle = some true := by decide
theorem test_miblk_off : after (·.miblk) (.miblk false) { idle with miblk := true } = some false := by decide

/-! ### The clock (section 7) -/

theorem test_threshold_positive : thresholdOf 65536 0x4000 = 32 := by decide
theorem test_threshold_negative : thresholdOf 65536 0x8000 = -15 := by decide
theorem test_threshold_below_one : thresholdOf 2000000 0x7FFF = 0 := by decide
/-- Section 7.3, cycle 1024: the output goes 7 to 8, its three low bits fall. -/
theorem test_hs_edge : (fun s => (s.hsout, s.hsedge, s.hssub)) (clockAdvance { idle with hssub := 127, hsout := 7 })
    = (8, 7, 0) := by decide
/-- Section 7.5, cycle 32: the correction fires and the tick in the same advance consumes it. -/
theorem test_drift : (fun s => (s.tickls, s.lslen, s.lscorr, s.lstc))
    (clockAdvance { idle with osccfg := 8, adj := 0x4000, lstc := 31, lscnt := 3 }) = (true, 3, .zero, 0) := by decide

/-! ### Responses (R9): the words of a response run inside the cycle -/

/-- R9, R234: the response to `Tick(0)` raises line 2, which the arbiter of the same cycle delivers. -/
theorem test_response : after (·.events) .cycle
    { idleOn (standardDescriptor .v12 65536 [{ domain := .none }]) with responses := [[0x12000000]] }
    = some [.tick 0, .raiseException 3 2, .tickAfterInterrupts 0] := by decide
/-- R231, R260: a CYCLE in a response is `Fatal(4)`; the cycle stays where it stands. -/
theorem test_nested_cycle : after (fun s => (s.fatal, s.incycle, s.events)) .cycle
    { idleOn (standardDescriptor .v12 65536 [{ domain := .none }]) with responses := [[0x01000000]] }
    = some (some .illegalCommand, true, [.tick 0]) := by decide

/-- R9, R10: a response's words run in order, so CLR.MI 4 after RAISE.MI 4 leaves nothing active. -/
theorem test_response_order : bitmap (runResponse respond [0x14000400, 0x19000400] idle) = (0, 0)
    ∧ bitmap (runResponse respond [0x19000400, 0x14000400] idle) = (slots [4], 1) := by decide
/-- R93: the numbers a fatal error and its absence have. -/
theorem test_fatalValue : after fatalValue (.lineTry 16) idle = some 5 ∧ fatalValue idle = 0 := by decide

/-! ### The toolchain's level (R87, R88) -/

theorem test_expand_wrie : expand defaultDescriptor (.wrie 0x1005) = [.wr 0xF010 0x05, .wr 0xF011 0x10] := by decide
theorem test_expand_wr16_wraps : expand defaultDescriptor (.wr16 0xFFFF 0x1234) = [.wr 0xFFFF 0x34, .wr 0x0000 0x12] := by
  decide
theorem test_expand_swi : expand defaultDescriptor (.swi 63) = [.raiseSw 127] := by decide
theorem test_assemble : assemble defaultDescriptor "[elevel=1 mie=0] WR A_IE+1, 0x10 ; CYCLES 2 # two"
    = some [⟨⟨some 1, some false⟩, [.wr 0xF011 0x10]⟩, ⟨⟨none, none⟩, [.cycle, .cycle]⟩] := by decide

/-! ### Witnesses: the hypotheses of each statement can be met -/

/-- The word presented as the only one. -/
def presenting (w : CommandWord) (s : State) : State := { s with port := [w] }

/-- An address of a register, from its row of the map. -/
theorem addressOf_row {d : Descriptor} {reg : Reg} (base : Addr) (bytes : Nat) {k : Nat} {addr : Addr}
    (hm : (reg, base, bytes) ∈ registerMap d) (hk : k < bytes) (ha : addr.toNat = base.toNat + k) :
    AddressOf d reg k addr := ⟨base, bytes, hm, hk, ha⟩

/-- An address the decoder of the bus misses belongs to no register. -/
theorem unmapped_of_locate {d : Descriptor} {addr : Addr} (hd : legalDescriptor d = true)
    (h : locate d addr = none) : Unmapped d addr := by
  intro reg k ha
  rw [locate_of_addressOf hd ha] at h
  cases h

theorem witness_EncodeOfDecode : decode 0x14003F00#32 = .ok (.raiseMi 63) := by rfl

theorem witness_WordSelectsItsRow :
    (⟨"WR", 0x30000000#32, 0xFF000000#32⟩ : OpcodeRow) ∈ opcodeMap
      ∧ 0x30FFFFFF#32 &&& 0xFF000000#32 = 0x30000000#32 := by decide

theorem witness_StepRunsTheDecodedCommand :
    (presenting 0x04000000#32 idle).port = 0x04000000#32 :: [] ∧ decode 0x04000000#32 = .ok .accept
      ∧ idle.port = [] := ⟨rfl, rfl, rfl⟩

theorem witness_IllegalWordRaisesFatal4 :
    idle.fatal = none ∧ (presenting 0x14008000#32 idle).port = 0x14008000#32 :: []
      ∧ ∀ r ∈ opcodeMap, 0x14008000#32 &&& r.maskBits ≠ r.matchBits := by decide

theorem witness_FatalIsForEver : { idle with fatal := some .badLineHandle }.fatal ≠ none := by decide

theorem witness_FatalCodeIsTheViolation :
    idle.fatal = none ∧ idle.responses = [] ∧ idle.incycle = false := by decide

/-- One response of one word, then an empty one. -/
def answering : State := { idle with responses := [[0x12000000#32], []] }

theorem witness_ResponseIsExecutedInOrder :
    idle.responses = [] ∧ answering.responses = [0x12000000#32] :: [[]] ∧ answering.fatal = none
      ∧ (∀ r ∈ opcodeMap, 0x14008000#32 &&& r.maskBits ≠ r.matchBits)
      ∧ { answering with fatal := some .illegalCommand }.fatal ≠ none := by decide

theorem witness_ResponseIsExecutedInOrder_word : decode 0x12000000#32 = .ok .raiseEmu := rfl

theorem witness_DescriptorNeverChanges : step idle = .next idle := rfl

/-- A state with lines active, shadow bits set, counters running, a word presented and a response waiting. -/
def busy : State :=
  { active [0, 5, 127] with
    ie := 4, irq := 0x1004, len := 4, osccfg := 0x0F, adj := 0x4000, hscnt := 63, lscnt := 3, lssub := 127,
    blkcon := 0xFF, rstlsreq := true, port := [0x01000000#32], responses := [[0x02000000#32]] }

theorem witness_EveryStepKeepsTheInvariant : busy.Inv ∧ ∃ t, step busy = .next t :=
  ⟨by decide, _, rfl⟩

/-- Two peripherals, one with the highest block bit. -/
def twoPeripherals : Descriptor :=
  standardDescriptor .v21 32768 [{ domain := .hs, blkbit := some 7 }, { domain := .ls }]

theorem witness_PowerOnReachesItsColumn :
    legalDescriptor twoPeripherals = true ∧ quietEnvironment.responses = []
      ∧ ∀ p ∈ twoPeripherals.periphs, ∀ b, p.blkbit = some b → b ≤ 7 ∧ twoPeripherals.blkValid.getLsbD b = true := by
  refine ⟨by decide, rfl, fun p hp b hb => ?_⟩
  simp only [twoPeripherals, standardDescriptor, List.mem_cons, List.mem_nil_iff, or_false] at hp
  rcases hp with rfl | rfl
  · cases hb; decide
  · cases hb

/-- A bit outside 0..7, and a bit outside `BLK_VALID`. -/
theorem witness_BadBlockBitFailsConstruction :
    legalDescriptor (standardDescriptor .v12 65536 [{ domain := .hs, blkbit := some 8 }]) = true
      ∧ legalDescriptor { twoPeripherals with blkValid := 0x7F } = true
      ∧ ¬ (8 ≤ 7 ∧ (0xFF#8).getLsbD 8 = true) ∧ ¬ (7 ≤ 7 ∧ (0x7F#8).getLsbD 7 = true) := by decide

theorem witness_ResetLeavesOnlyTheResetLine :
    answering.fatal = none ∧ after (·.fatal) .rst answering = some none := by decide

theorem witness_ResetWritesTheControllerOnly :
    (idleOn sixPeripherals).fatal = none ∧ (idleOn sixPeripherals).responses = [] := by decide

theorem witness_BreakByExceptionLevel :
    (scenarioC 1).fatal = none ∧ (sampled (scenarioC 1)).coreports.elevel.toNat ≤ 1
      ∧ (scenarioC 2).fatal = none ∧ 1 < (sampled (scenarioC 2)).coreports.elevel.toNat := by decide

theorem witness_RaisesSetTheirSlot : idle.fatal = none := rfl

theorem witness_RaiseMaskableByRange :
    idle.fatal = none ∧ (4 ≤ (4 : Line).toNat ∧ (4 : Line).toNat ≤ 63) ∧ (4 ≤ (63 : Line).toNat ∧ (63 : Line).toNat ≤ 63)
      ∧ ((3 : Line).toNat < 4 ∨ 63 < (3 : Line).toNat) ∧ ((64 : Line).toNat < 4 ∨ 63 < (64 : Line).toNat) := by decide

theorem witness_RaiseSoftwareByRange :
    idle.fatal = none ∧ 64 ≤ (64 : Line).toNat ∧ (63 : Line).toNat < 64 := by decide

theorem witness_ClearNonmaskableClearsItsSlot : (active [3]).fatal = none := rfl

theorem witness_ClearMaskableByRange :
    (active [63]).fatal = none ∧ (4 ≤ (63 : Line).toNat ∧ (63 : Line).toNat ≤ 63)
      ∧ ((64 : Line).toNat < 4 ∨ 63 < (64 : Line).toNat) := by decide

theorem witness_RaiseTwiceIsRaiseOnce : ∃ t, exec (.raiseMi 63) idle = .next t := ⟨_, rfl⟩

theorem witness_RequestNonmaskableByMask :
    idle.fatal = none ∧ idle.ie.getLsbD 0 = false ∧ { idle with ie := 1 }.fatal = none
      ∧ { idle with ie := 1 }.ie.getLsbD 0 = true := by decide

/-- Row A9: line 4 is first among 4, 9, 63 at level 0. -/
theorem first_a9 : FirstDeliverable (sampled (arbiter [4, 9, 63] 0 true false)) 4 := by
  unfold FirstDeliverable; decide

/-- Row A3: line 127, the last software line, goes before 2, 1, 3 and 4, at level 3. -/
theorem first_a3 : FirstDeliverable (sampled (arbiter [1, 2, 3, 4, 127] 3 true false)) 127 := by
  unfold FirstDeliverable; decide

/-- Row A7: line 3 at level 2, before line 4. -/
theorem first_a7 : FirstDeliverable (sampled (arbiter [3, 4] 2 true false)) 3 := by
  unfold FirstDeliverable; decide

theorem witness_AcceptDeliversTheFirstDeliverable :
    (arbiter [4, 9, 63] 0 true false).fatal = none ∧ (arbiter [4, 9, 63] 0 true false).cnt ≠ 0
      ∧ FirstDeliverable (sampled (arbiter [4, 9, 63] 0 true false)) 4
      ∧ (arbiter [1, 2, 3, 4, 127] 3 true false).fatal = none ∧ (arbiter [1, 2, 3, 4, 127] 3 true false).cnt ≠ 0
      ∧ FirstDeliverable (sampled (arbiter [1, 2, 3, 4, 127] 3 true false)) 127
      ∧ (arbiter [3, 4] 2 true false).fatal = none ∧ (arbiter [3, 4] 2 true false).cnt ≠ 0
      ∧ FirstDeliverable (sampled (arbiter [3, 4] 2 true false)) 3 :=
  ⟨rfl, by decide, first_a9, rfl, by decide, first_a3, rfl, by decide, first_a7⟩

/-- Row A11: lines active, none deliverable at level 2. -/
theorem witness_AcceptDefersOtherwise :
    (arbiter [4, 9, 63] 2 true false).fatal = none ∧ (arbiter [4, 9, 63] 2 true false).cnt ≠ 0
      ∧ ∀ l, ¬ Deliverable (sampled (arbiter [4, 9, 63] 2 true false)) l := by decide

theorem witness_AcceptWithNothingActive : idle.fatal = none ∧ idle.cnt = 0 := by decide

/-- The lines with a handle on V12 are 4..15, on V21 4..24. -/
theorem witness_LineEnableWritesItsFlag :
    idle.fatal = none ∧ (4 ≤ (4 : Line).toNat ∧ (4 : Line).toNat ≤ 3 + lineCount idle.desc)
      ∧ (4 ≤ (15 : Line).toNat ∧ (15 : Line).toNat ≤ 3 + lineCount idle.desc)
      ∧ ((3 : Line).toNat < 4 ∨ 3 + lineCount idle.desc < (3 : Line).toNat)
      ∧ ((16 : Line).toNat < 4 ∨ 3 + lineCount idle.desc < (16 : Line).toNat) := by decide

/-- Line 15 enabled, line 4 not. -/
def enabled15 : State := { idle with len := 0x1000 }

theorem witness_LineTrySetsPending :
    enabled15.fatal = none ∧ (4 ≤ (15 : Line).toNat ∧ (15 : Line).toNat ≤ 3 + lineCount enabled15.desc)
      ∧ enabled15.len.getLsbD ((15 : Line).toNat - 3) = true
      ∧ (4 ≤ (4 : Line).toNat ∧ (4 : Line).toNat ≤ 3 + lineCount enabled15.desc)
      ∧ enabled15.len.getLsbD ((4 : Line).toNat - 3) = false
      ∧ ((16 : Line).toNat < 4 ∨ 3 + lineCount enabled15.desc < (16 : Line).toNat) := by decide

theorem witness_LineClearClearsPending :
    { active [15] with irq := 0x1000 }.fatal = none
      ∧ (4 ≤ (15 : Line).toNat ∧ (15 : Line).toNat ≤ 3 + lineCount idle.desc)
      ∧ ((16 : Line).toNat < 4 ∨ 3 + lineCount idle.desc < (16 : Line).toNat) := by decide

/-- Every column of R184: for ACCEPT, row A9 with line 4; the other columns ask for the line's range alone. -/
theorem witness_LineTripleMoves :
    (arbiter [4, 9, 63] 0 true false).fatal = none ∧ 4 ≤ (4 : Line).toNat
      ∧ (4 : Line).toNat ≤ 3 + lineCount (arbiter [4, 9, 63] 0 true false).desc
      ∧ (arbiter [4, 9, 63] 0 true false).cnt ≠ 0
      ∧ FirstDeliverable (sampled (arbiter [4, 9, 63] 0 true false)) 4 ∧ (15 : Line).toNat ≤ 3 + lineCount idle.desc :=
  ⟨rfl, by decide, by decide, by decide, first_a9, by decide⟩

theorem legal_default : legalDescriptor idle.desc = true := by decide

theorem address_osccfg : AddressOf idle.desc .osccfg 0 0xF002 := addressOf_row 0xF002 1 (by decide) (by decide) (by decide)
theorem address_lsrst : AddressOf idle.desc .lsrst 0 0xF00A := addressOf_row 0xF00A 1 (by decide) (by decide) (by decide)
theorem address_hsrst : AddressOf idle.desc .hsrst 0 0xF00B := addressOf_row 0xF00B 1 (by decide) (by decide) (by decide)
theorem address_adj : AddressOf idle.desc .adj 1 0xF00D := addressOf_row 0xF00C 2 (by decide) (by decide) (by decide)
theorem address_ie : AddressOf idle.desc .ie 0 0xF010 := addressOf_row 0xF010 2 (by decide) (by decide) (by decide)
theorem address_ie_high : AddressOf idle.desc .ie 1 0xF011 := addressOf_row 0xF010 2 (by decide) (by decide) (by decide)
theorem address_irq : AddressOf idle.desc .irq 1 0xF015 := addressOf_row 0xF014 2 (by decide) (by decide) (by decide)
theorem address_blkcon : AddressOf idle.desc .blkcon 0 0xF028 := addressOf_row 0xF028 1 (by decide) (by decide) (by decide)

theorem witness_ReadReturnsTheAddressedByte :
    idle.fatal = none ∧ legalDescriptor idle.desc = true ∧ AddressOf idle.desc .osccfg 0 0xF002
      ∧ AddressOf idle.desc .lsrst 0 0xF00A ∧ AddressOf idle.desc .hsrst 0 0xF00B ∧ AddressOf idle.desc .adj 1 0xF00D
      ∧ AddressOf idle.desc .ie 1 0xF011 ∧ AddressOf idle.desc .irq 1 0xF015 ∧ AddressOf idle.desc .blkcon 0 0xF028 :=
  ⟨rfl, legal_default, address_osccfg, address_lsrst, address_hsrst, address_adj, address_ie_high, address_irq,
    address_blkcon⟩

/-- The address right after the last byte of IE on V12 belongs to no register. -/
theorem witness_MissedAccessChangesNothing : idle.fatal = none ∧ Unmapped idle.desc 0xF012 :=
  ⟨rfl, unmapped_of_locate legal_default (by decide)⟩

/-- Writing bit 0 of IE as 1 with the request remembered or not, and as 0. -/
theorem witness_MaskWriteEnablesLines :
    idle.fatal = none ∧ legalDescriptor idle.desc = true ∧ AddressOf idle.desc .ie 0 0xF010
      ∧ after (fun s => s.ie.getLsbD 0) (.wr 0xF010 0x01) { idle with irq := 1 } = some true
      ∧ after (fun s => s.ie.getLsbD 0) (.wr 0xF010 0x01) idle = some true
      ∧ after (fun s => s.ie.getLsbD 0) (.wr 0xF010 0x00) { active [3] with ie := 1, irq := 1 } = some false :=
  ⟨rfl, legal_default, address_ie, by decide, by decide, by decide⟩

theorem witness_PendingWriteReevaluatesLines :
    { active [3, 5] with len := 4, irq := 5 }.fatal = none ∧ legalDescriptor idle.desc = true
      ∧ { active [3, 5] with len := 4, irq := 5 }.CounterAgrees ∧ AddressOf idle.desc .irq 1 0xF015 :=
  ⟨rfl, legal_default, by decide, address_irq⟩

theorem witness_OscillatorWriteStoresFourBits :
    idle.fatal = none ∧ legalDescriptor idle.desc = true ∧ AddressOf idle.desc .osccfg 0 0xF002 :=
  ⟨rfl, legal_default, address_osccfg⟩

theorem witness_LowSpeedResetWrite :
    busy.fatal = none ∧ legalDescriptor busy.desc = true ∧ AddressOf busy.desc .lsrst 0 0xF00A :=
  ⟨rfl, legal_default, address_lsrst⟩

theorem witness_HighSpeedResetWrite :
    busy.fatal = none ∧ legalDescriptor busy.desc = true ∧ AddressOf busy.desc .hsrst 0 0xF00B :=
  ⟨rfl, legal_default, address_hsrst⟩

theorem witness_AdjustWriteReplacesItsByte :
    busy.fatal = none ∧ legalDescriptor busy.desc = true ∧ AddressOf busy.desc .adj 1 0xF00D :=
  ⟨rfl, legal_default, address_adj⟩

theorem witness_BlockControlWriteEmitsHooks :
    (idleOn sixPeripherals).fatal = none ∧ (idleOn sixPeripherals).responses = []
      ∧ legalDescriptor sixPeripherals = true ∧ AddressOf sixPeripherals .blkcon 0 0xF028
      ∧ blockHooks sixPeripherals 0x00 0x02 = [.uninitialise 5] ∧ blockHooks sixPeripherals 0x02 0x00 = [.initialise 5] :=
  ⟨rfl, rfl, by decide, addressOf_row 0xF028 1 (by decide) (by decide) (by decide), by decide, by decide⟩

theorem witness_MaskRoundTrip :
    idle.fatal = none ∧ legalDescriptor idle.desc = true ∧ 1 < shadowBytes idle.desc := by decide

/-- A write of the low byte of IRQ, and the next address. -/
theorem witness_WriteChangesOnlyItsByte :
    { busy with responses := [] }.Inv ∧ busy.irq &&& ~~~irqValid busy.desc = 0 ∧ (0xF015#16 : Addr) ≠ 0xF014#16
      ∧ ∃ t, exec (.wr 0xF014 0xFF) { busy with responses := [] } = .next t :=
  ⟨by decide, by decide, by decide, _, rfl⟩

/-- A tick that wraps the output, a tick in a reset's triggering cycle, and no tick. -/
theorem witness_HighSpeedAdvance :
    { idle with hssub := 127 }.CycleFlagsClear ∧ 2 ^ min (idle.osccfg.toNat % 8) 6 ≤ idle.hscnt.toNat + 1
      ∧ { idle with hssub := 127 }.rsthsreq = false ∧ { idle with hssub := 127 }.hssub.toNat = 127
      ∧ { idle with rsthsreq := true }.CycleFlagsClear ∧ { idle with osccfg := 7, hscnt := 62 }.CycleFlagsClear
      ∧ ¬ 2 ^ min ((7#8 : Byte).toNat % 8) 6 ≤ (62#7 : BitVec 7).toNat + 1 := by decide

/-- Section 7.5, cycle 32: the correction fires with the tick; the same with nothing due. -/
theorem witness_LowSpeedAdvance :
    legalDescriptor idle.desc = true
      ∧ { idle with osccfg := 8, adj := 0x4000, lstc := 31, lscnt := 3, lssub := 127 }.CountersInRange
      ∧ { idle with osccfg := 8, adj := 0x4000, lstc := 31, lscnt := 3, lssub := 127 }.CycleFlagsClear
      ∧ (8#8 : Byte).getLsbD 3 = true
      ∧ (thresholdOf 65536 0x4000 ≠ 0 ∧ (thresholdOf 65536 0x4000).natAbs ≤ (31#32 : BitVec 32).toNat + 1)
      ∧ idle.lslen.toNat = (3#32 : BitVec 32).toNat + 1
      ∧ { idle with osccfg := 8 }.CountersInRange ∧ { idle with osccfg := 8 }.CycleFlagsClear := by decide

theorem witness_LowSpeedHoldsWhenDisabled : idle.osccfg.getLsbD 3 = false := by decide

theorem witness_ThresholdIsTheTruncatedFormula : 0 < 65536 ∧ (0 : BitVec 16) = 0 ∧ (0x8000 : BitVec 16) ≠ 0 := by decide

theorem witness_ThresholdIsBounded : 32768 ≤ 32768 ∧ (thresholdOf 32768 1).natAbs = 1048576 := by decide

theorem witness_TickRates :
    { idle with osccfg := 7, hscnt := 63 }.CycleFlagsClear
      ∧ { idle with osccfg := 7, hscnt := 63 }.hscnt.toNat < hsdiv { idle with osccfg := 7, hscnt := 63 } := by decide

theorem witness_NestedCycleIsFatal : { idle with incycle := true }.fatal = none ∧ { idle with incycle := true }.incycle = true := by
  decide

theorem witness_CycleRunsItsFiveSteps :
    ∃ c, (idleOn sixPeripherals).fatal = none ∧ (idleOn sixPeripherals).incycle = false
      ∧ (idleOn sixPeripherals).responses = [] ∧ c = clockAdvance { idleOn sixPeripherals with incycle := true } :=
  ⟨_, rfl, rfl, rfl, rfl⟩

theorem witness_CycleClearsItsFlags :
    busy.fatal = none ∧ busy.incycle = false ∧ after (·.fatal) .cycle busy = some none := by decide

/-- Halted with lines 4, 9 and 63 active and the master enable off (row A12). -/
theorem witness_SleepWithNothingDeliverable :
    (arbiter [4, 9, 63] 0 false false).fatal = none ∧ (arbiter [4, 9, 63] 0 false false).incycle = false
      ∧ (arbiter [4, 9, 63] 0 false false).responses = [] ∧ (arbiter [4, 9, 63] 0 false false).runmode ≠ .running
      ∧ ∀ l, ¬ Deliverable (sampled (arbiter [4, 9, 63] 0 false false)) l := by decide

theorem witness_StoppedAndHaltedAreAlike :
    AlikeButForRest { idle with runmode := .stopped } { idle with runmode := .halted } := ⟨rfl, by decide⟩

theorem witness_RunmodeStoresItsMode : (idleOn sixPeripherals).fatal = none := rfl

theorem witness_MiblkStoresItsFlag : { idle with miblk := true }.fatal = none := rfl

theorem witness_NumericCodes :
    { idle with fatal := some .badLineHandle }.fatal = some .badLineHandle ∧ (2 : BitVec 2) ≠ 3 := by decide

/-- Two peripherals that tick every cycle, the second with block bit 0. -/
def tickers : Descriptor := standardDescriptor .v12 65536 [{ domain := .none }, { domain := .none, blkbit := some 0 }]

/-- The environment answers the next events with the listed responses. -/
def answers (rs : List Response) : State := { idleOn tickers with responses := rs }

theorem witness_FatalInAResponse_reset :
    (answers [[], [0xFFFFFFFF]]).fatal = none ∧ 1 < tickers.periphs.length
      ∧ FirstFatalAt resetEvent 1 (answers [[], [0xFFFFFFFF]])
      ∧ NoFatalThrough resetEvent tickers.periphs.length (answers [[0x12000000], []]) := by
  unfold FirstFatalAt NoFatalThrough; decide

/-- The state right after BLKCON is written, before its hooks. -/
def blocked (s : State) : State := { s with blkcon := 0x01 &&& s.desc.blkValid }

theorem witness_FatalInAResponse_block :
    legalDescriptor tickers = true ∧ AddressOf tickers .blkcon 0 0xF028
      ∧ FirstFatalAt (blockEvent tickers 0 (0x01 &&& tickers.blkValid)) 1 (blocked (answers [[0x14000300]]))
      ∧ NoFatalThrough (blockEvent tickers 0 (0x01 &&& tickers.blkValid)) tickers.periphs.length
          (blocked (answers [[0x14000400]])) := by
  refine ⟨by decide, addressOf_row 0xF028 1 (by decide) (by decide) (by decide), ?_⟩
  unfold FirstFatalAt NoFatalThrough; decide

/-- The environment that answers the hooks of construction with the listed responses. -/
def environment (rs : List Response) : Environment := { quietEnvironment with responses := rs }

theorem goodBits_tickers :
    ∀ p ∈ tickers.periphs, ∀ b, p.blkbit = some b → b ≤ 7 ∧ tickers.blkValid.getLsbD b = true := by
  intro p hp b hb
  simp only [tickers, standardDescriptor, List.mem_cons, List.mem_nil_iff, or_false] at hp
  rcases hp with rfl | rfl
  · cases hb
  · cases hb; decide

/-- A fatal error in the last `Initialise`, in the last `Reset`, and in none, with a line raised by a hook. -/
theorem witness_FatalInAResponse_construction :
    legalDescriptor tickers = true ∧ 1 < tickers.periphs.length
      ∧ FirstFatalAt initialiseEvent 1 (underConstruction tickers (environment [[], [0x14000300]]))
      ∧ NoFatalThrough initialiseEvent 2 (underConstruction tickers (environment [[], [], [], [0x14000300]]))
      ∧ FirstFatalAt resetEvent 1
          (afterEvents initialiseEvent 2 (underConstruction tickers (environment [[], [], [], [0x14000300]])))
      ∧ NoFatalThrough resetEvent 2
          (afterEvents initialiseEvent 2 (underConstruction tickers (environment [[], [], [0x14000400]]))) := by
  unfold FirstFatalAt NoFatalThrough; decide

/-- R300: what the hooks of construction raise is wiped by the controller part of RST. -/
theorem test_powerOn_wipes : (nextOf (powerOn tickers (environment [[0x14000400], [], [0x1A000000]]))).map
    (fun s => (bitmap s, s.irq)) = some ((slots [0], 1), 0) := by decide

theorem witness_FatalInAResponse_nested :
    { idle with incycle := true }.fatal = none ∧ { idle with incycle := true }.incycle = true
      ∧ decode 0x01000000#32 = .ok .cycle := ⟨rfl, rfl, rfl⟩

/-- The state in which step 2 of a cycle starts. -/
def stepTwo (s : State) : State := clockAdvance { s with incycle := true }

/-- A fatal error in step 2: the second `Tick` is answered with an illegal word. -/
theorem witness_CycleTakesItsResponses_two :
    (answers [[], [0xFFFFFFFF]]).fatal = none ∧ (answers [[], [0xFFFFFFFF]]).incycle = false
      ∧ 1 < tickers.periphs.length
      ∧ FirstFatalAt (dispatchOf tickers) 1 (stepTwo (answers [[], [0xFFFFFFFF]])) := by
  unfold FirstFatalAt NoFatalThrough; decide

/-- A fatal error in step 3: the first `TickAfterInterrupts` is answered with a nested CYCLE. -/
theorem witness_CycleTakesItsResponses_three :
    NoFatalThrough (dispatchOf tickers) tickers.periphs.length (stepTwo (answers [[], [], [0x01000000]]))
      ∧ FirstFatalAt afterInterruptsEvent 0
          (acceptInterrupt (afterEvents (dispatchOf tickers) 2 (stepTwo (answers [[], [], [0x01000000]])))) := by
  unfold FirstFatalAt NoFatalThrough; decide

/-- No fatal error before step 4. -/
theorem witness_CycleTakesItsResponses_four :
    NoFatalThrough (dispatchOf tickers) tickers.periphs.length (stepTwo (answers [[], [0x12000000]]))
      ∧ NoFatalThrough afterInterruptsEvent tickers.periphs.length
          (acceptInterrupt (afterEvents (dispatchOf tickers) 2 (stepTwo (answers [[], [0x12000000]])))) := by
  unfold NoFatalThrough; decide

theorem witness_WriteIsReadBack :
    idle.fatal = none ∧ idle.responses = [] ∧ legalDescriptor idle.desc = true
      ∧ AddressOf idle.desc .osccfg 0 0xF002 ∧ AddressOf idle.desc .lsrst 0 0xF00A
      ∧ AddressOf idle.desc .hsrst 0 0xF00B ∧ AddressOf idle.desc .adj 1 0xF00D
      ∧ AddressOf idle.desc .ie 1 0xF011 ∧ AddressOf idle.desc .irq 1 0xF015 ∧ AddressOf idle.desc .blkcon 0 0xF028 :=
  ⟨rfl, rfl, legal_default, address_osccfg, address_lsrst, address_hsrst, address_adj, address_ie_high, address_irq,
    address_blkcon⟩

end Sys2Proof.Tests
end

section
/-! PROOF. Which words decode, and which rows they select: the decoder against the encoder (R83, R84). -/

namespace Sys2Proof

/-- A word of the format without operands is its command's word (format N of R83). -/
theorem encode_of_plainFormat {op : BitVec 8} {a : BitVec 16} {d : BitVec 8} {i j : Instr}
    (h : inFormat op (a == 0 && d == 0) i = .ok j) (he : encode i = commandWord op 0 0) :
    encode j = commandWord op a d := by
  obtain ⟨hz, rfl⟩ := inFormat_ok.mp h
  simp only [Bool.and_eq_true, beq_iff_eq] at hz
  rw [he, hz.1, hz.2]

/-- A word of the line format is its command's word (format L of R83). -/
theorem encode_of_indexFormat {op : BitVec 8} {a : BitVec 16} {d : BitVec 8} {f : Line → Instr} {j : Instr}
    (h : inFormat op (indexOnly a && d == 0) (f (indexOperand a)) = .ok j)
    (he : ∀ l, encode (f l) = commandWord op (indexField l) 0) : encode j = commandWord op a d := by
  obtain ⟨hz, rfl⟩ := inFormat_ok.mp h
  simp only [Bool.and_eq_true, beq_iff_eq] at hz
  rw [he, indexField_indexOperand hz.1, hz.2]

/-- Only a command's own word decodes to it: the must-be-zero fields of its format leave no second word (R83, R85). -/
theorem encode_of_decodeFields {op : BitVec 8} {a : BitVec 16} {d : BitVec 8} {i : Instr}
    (h : decodeFields op a d = .ok i) : encode i = commandWord op a d := by
  have hop : ∀ {n : Nat}, op.toNat = n → op = BitVec.ofNat 8 n := fun e => by
    rw [← e, BitVec.ofNat_toNat, BitVec.setWidth_eq]
  unfold decodeFields at h
  -- the rows of R84 in their order, gathered by the formats of R83
  split at h
  -- N
  case h_1 e | h_2 e | h_3 e | h_4 e | h_5 e | h_6 e | h_7 e | h_8 e | h_11 e | h_13 e =>
    exact encode_of_plainFormat h (by rw [hop e]; rfl)
  -- L
  case h_9 e | h_10 e | h_12 e | h_15 e | h_16 e =>
    exact encode_of_indexFormat h (fun l => by rw [hop e]; rfl)
  -- LB: LINE.EN
  case h_14 e =>
    obtain ⟨hz, rfl⟩ := inFormat_ok.mp h
    rw [Bool.and_eq_true] at hz
    rw [encode, indexField_indexOperand hz.1, flagField_flagOperand d hz.2, hop e]
  -- W: WR
  case h_17 e =>
    obtain ⟨-, rfl⟩ := inFormat_ok.mp h
    rw [encode, hop e]
  -- R: RD
  case h_18 e =>
    obtain ⟨hz, rfl⟩ := inFormat_ok.mp h
    rw [encode, eq_of_beq hz, hop e]
  -- M: RUNMODE
  case h_19 e =>
    obtain ⟨hz, rfl⟩ := inFormat_ok.mp h
    rw [Bool.and_eq_true, beq_iff_eq] at hz
    rw [encode, hz.1, modeField_modeOperand d hz.2, hop e]
  -- F: MIBLK
  case h_20 e =>
    obtain ⟨hz, rfl⟩ := inFormat_ok.mp h
    rw [Bool.and_eq_true, beq_iff_eq] at hz
    rw [encode, hz.1, flagField_flagOperand d hz.2, hop e]
  -- no row
  case h_21 => cases h

theorem encode_of_decode {w : CommandWord} {i : Instr} (h : decode w = .ok i) : encode i = w :=
  (encode_of_decodeFields h).trans (commandWord_fields w)

end Sys2Proof

namespace Sys2Proof.Laws

/-- Every command's word selects the row of its mnemonic (R84). -/
theorem rowMatch : ∀ i : Instr, RowMatch.Statement i
  | .cycle => RowMatch.cycle
  | .rst => RowMatch.rst
  | .brk => RowMatch.brk
  | .accept => RowMatch.accept
  | .raiseRst => RowMatch.raiseRst
  | .raiseBrk => RowMatch.raiseBrk
  | .raiseEmu => RowMatch.raiseEmu
  | .raiseNmi => RowMatch.raiseNmi
  | .raiseMi index => RowMatch.raiseMi index
  | .raiseSw index => RowMatch.raiseSw index
  | .clrNmi => RowMatch.clrNmi
  | .clrMi index => RowMatch.clrMi index
  | .reqNmi => RowMatch.reqNmi
  | .lineEn index flag => RowMatch.lineEn index flag
  | .lineTry index => RowMatch.lineTry index
  | .lineClr index => RowMatch.lineClr index
  | .wr addr data => RowMatch.wr addr data
  | .rd addr => RowMatch.rd addr
  | .runmode mode => RowMatch.runmode mode
  | .miblk flag => RowMatch.miblk flag

end Sys2Proof.Laws

namespace Sys2Proof

/-- A word that decodes to a command selects that command's row (R84). -/
theorem selects_of_decode {w : CommandWord} {i : Instr} (h : decode w = .ok i) :
    ∃ r ∈ opcodeMap, r.mnemonic = i.mnemonic ∧ w &&& r.maskBits = r.matchBits := by
  obtain ⟨r, hr, hn, hsel⟩ := Laws.rowMatch i
  rw [encode_of_decode h] at hsel
  exact ⟨r, hr, hn, eq_of_beq hsel⟩

/-- A word that selects no row is illegal (R86). -/
theorem decode_error_of_noRow {w : CommandWord} (h : ∀ r ∈ opcodeMap, w &&& r.maskBits ≠ r.matchBits) :
    ∃ e, decode w = .error e := by
  cases hd : decode w with
  | error e => exact ⟨e, rfl⟩
  | ok i =>
    obtain ⟨r, hr, -, hsel⟩ := selects_of_decode hd
    exact absurd hsel (h r hr)

end Sys2Proof
end

section
/-! PROOF. What every command leaves alone of the descriptor and the list of responses, and that a responder
matters only on the states its operation can reach; so the depth of nesting that `respond` allows is enough (R9). -/

namespace Sys2Proof.Machine

open Sys2Proof.Config

/-- An operation that writes neither the descriptor nor the list of responses. -/
def KeepsInputs (f : State → State) : Prop :=
  ∀ s, (f s).desc = s.desc ∧ (f s).responses = s.responses

theorem keepsInputs_raiseFatal (c : FatalCode) : KeepsInputs (raiseFatal c) := fun _ => ⟨rfl, rfl⟩

theorem keepsInputs_emit (e : Event) : KeepsInputs (emit e) := fun _ => ⟨rfl, rfl⟩

theorem keepsInputs_activate (l : Line) : KeepsInputs (activate l) := fun s => by simp

theorem keepsInputs_deactivate (l : Line) : KeepsInputs (deactivate l) := fun s => by simp

theorem keepsInputs_setPending (k : Nat) (b : Bool) : KeepsInputs (setPending k b) := fun _ => ⟨rfl, rfl⟩

theorem keepsInputs_samplePorts : KeepsInputs samplePorts := fun s => by simp

theorem SameButLines.inputs {s t : State} (h : SameButLines s t) : t.desc = s.desc ∧ t.responses = s.responses := by
  rw [h]; exact ⟨rfl, rfl⟩

theorem SameButClock.inputs {s t : State} (h : SameButClock s t) : t.desc = s.desc ∧ t.responses = s.responses := by
  rw [h]; exact ⟨rfl, rfl⟩

theorem keepsInputs_acceptInterrupt : KeepsInputs acceptInterrupt := fun s => by
  rw [acceptInterrupt_frame]; exact ⟨rfl, rfl⟩

theorem keepsInputs_resetController : KeepsInputs resetController := fun s => by
  simp [resetController]

theorem keepsInputs_setRunmode (mode : BitVec 2) : KeepsInputs (setRunmode mode) := fun s => by
  unfold setRunmode; split <;> exact ⟨rfl, rfl⟩

theorem keepsInputs_busReadOut (addr : Addr) : KeepsInputs (busReadOut addr) := fun s => by
  unfold busReadOut; split <;> exact ⟨rfl, rfl⟩

/-- Two operations that do the same on every state whose descriptor and responses satisfy `Q`, and stay there. -/
def AgreeOn (Q : Descriptor → List Response → Prop) (f g : State → State) : Prop :=
  ∀ s, Q s.desc s.responses → f s = g s ∧ Q (f s).desc (f s).responses

variable {Q : Descriptor → List Response → Prop} {f g : State → State} {r r' : Responder}

theorem KeepsInputs.agreeOn (h : KeepsInputs f) : AgreeOn Q f f := fun s hs => by
  obtain ⟨hd, hr⟩ := h s
  exact ⟨rfl, by rwa [hd, hr]⟩

theorem AgreeOn.unlessFatal (h : AgreeOn Q f g) : AgreeOn Q (unlessFatal f) (unlessFatal g) := fun s hs => by
  by_cases hf : s.fatal = none
  · rw [unlessFatal_of_none hf, unlessFatal_of_none hf]; exact h s hs
  · rw [unlessFatal_of_faulted hf, unlessFatal_of_faulted hf]; exact ⟨rfl, hs⟩

theorem AgreeOn.comp {f' g' : State → State} (h : AgreeOn Q f g) (h' : AgreeOn Q f' g') :
    AgreeOn Q (fun s => f' (f s)) (fun s => g' (g s)) := fun s hs => by
  obtain ⟨heq, hq⟩ := h s hs
  show f' (f s) = g' (g s) ∧ _
  rw [← heq]
  exact h' _ hq

theorem AgreeOn.ite {c : State → Prop} [DecidablePred c] {f' g' : State → State} (h : AgreeOn Q f g)
    (h' : AgreeOn Q f' g') : AgreeOn Q (fun s => if c s then f s else f' s) (fun s => if c s then g s else g' s) :=
  fun s hs => by
    dsimp only
    split
    · exact h s hs
    · exact h' s hs

theorem agreeOn_id : AgreeOn Q id id := fun _ hs => ⟨rfl, hs⟩

/-- Sequences of operations that agree one by one agree. -/
theorem agreeOn_inOrder {fs gs : List (State → State)} (h : List.Forall₂ (AgreeOn Q) fs gs) :
    AgreeOn Q (inOrder fs) (inOrder gs) := by
  induction h with
  | nil => exact fun s hs => ⟨rfl, hs⟩
  | cons hfg _ ih =>
    intro s hs
    obtain ⟨heq, hq⟩ := hfg.unlessFatal s hs
    rw [inOrder_cons, inOrder_cons, ← heq]
    exact ih _ hq

theorem agreeOn_eachFrom {f g : Nat → Peripheral → State → State} (h : ∀ n p, AgreeOn Q (f n p) (g n p)) (n : Nat)
    (ps : List Peripheral) : AgreeOn Q (eachFrom f n ps) (eachFrom g n ps) := by
  induction ps generalizing n with
  | nil => exact fun s hs => ⟨rfl, hs⟩
  | cons p ps ih =>
    intro s hs
    obtain ⟨heq, hq⟩ := (h n p).unlessFatal s hs
    rw [eachFrom, eachFrom, ← heq]
    exact ih (n + 1) _ hq

theorem agreeOn_eachPeripheral {f g : Nat → Peripheral → State → State} (h : ∀ n p, AgreeOn Q (f n p) (g n p)) :
    AgreeOn Q (eachPeripheral f) (eachPeripheral g) := fun s => agreeOn_eachFrom h 0 s.desc.periphs s

theorem agreeOn_hook (h : AgreeOn Q r r') (e : Event) : AgreeOn Q (hook r e) (hook r' e) := fun s => h (emit e s)

theorem agreeOn_hookIfDue (h : AgreeOn Q r r') (ev : State → Option Event) :
    AgreeOn Q (fun s => hookIfDue r (ev s) s) (fun s => hookIfDue r' (ev s) s) := fun s hs => by
  dsimp only
  cases ev s with
  | none => exact ⟨rfl, hs⟩
  | some e => exact agreeOn_hook h e s hs

theorem agreeOn_resetBlock (h : AgreeOn Q r r') : AgreeOn Q (resetBlock r) (resetBlock r') :=
  agreeOn_inOrder (.cons (agreeOn_eachPeripheral fun n _ => agreeOn_hook h (.resetPeriph n))
    (.cons keepsInputs_resetController.agreeOn .nil))

theorem agreeOn_breakBlock (h : AgreeOn Q r r') : AgreeOn Q (breakBlock r) (breakBlock r') :=
  keepsInputs_samplePorts.agreeOn.comp
    ((agreeOn_resetBlock h).ite (c := fun s => 1 < s.coreports.elevel.toNat) (keepsInputs_activate 1).agreeOn)

theorem agreeOn_runCycle (h : AgreeOn Q r r') : AgreeOn Q (runCycle r) (runCycle r') :=
  have hbegin : KeepsInputs beginCycle := fun _ => ⟨rfl, rfl⟩
  have hclock : KeepsInputs clockAdvance := fun s => (sameButClock_clockAdvance s).inputs
  have hdispatch : AgreeOn Q (dispatchTicks r) (dispatchTicks r') :=
    agreeOn_eachPeripheral fun n p => agreeOn_hookIfDue h fun s => dispatchEvent s n p
  have harbitrate : AgreeOn Q arbitrate arbitrate := agreeOn_id.ite keepsInputs_acceptInterrupt.agreeOn
  have hafter : AgreeOn Q (tickAfterAll r) (tickAfterAll r') :=
    agreeOn_eachPeripheral fun n _ => agreeOn_hook h (.tickAfterInterrupts n)
  have hstep : AgreeOn Q (stepCore r) (stepCore r') := (agreeOn_hook h .step).ite agreeOn_id
  have hclear : KeepsInputs clearCycleFlags := fun _ => ⟨rfl, rfl⟩
  (keepsInputs_raiseFatal .illegalCommand).agreeOn.ite (c := fun s => s.incycle = true)
    (agreeOn_inOrder (.cons hbegin.agreeOn (.cons hclock.agreeOn (.cons hdispatch (.cons harbitrate
      (.cons hafter (.cons hstep (.cons hclear.agreeOn .nil))))))))

theorem agreeOn_writeBlkcon (h : AgreeOn Q r r') (new : Byte) : AgreeOn Q (writeBlkcon r new) (writeBlkcon r' new) :=
  fun s hs => agreeOn_eachPeripheral
    (fun n p => agreeOn_hookIfDue h fun _ => blockTransition s.blkcon (new &&& s.desc.blkValid) n p)
    { s with blkcon := new &&& s.desc.blkValid } hs

theorem agreeOn_writeRegister (h : AgreeOn Q r r') (reg : Reg) (new : BitVec 24) :
    AgreeOn Q (writeRegister r reg new) (writeRegister r' reg new) := by
  cases reg with
  | osccfg => exact (show KeepsInputs (writeOsccfg _) from fun _ => ⟨rfl, rfl⟩).agreeOn
  | lsrst => exact (show KeepsInputs writeLsrst from fun _ => ⟨rfl, rfl⟩).agreeOn
  | hsrst => exact (show KeepsInputs writeHsrst from fun _ => ⟨rfl, rfl⟩).agreeOn
  | adj => exact (show KeepsInputs (writeAdj _) from fun _ => ⟨rfl, rfl⟩).agreeOn
  | ie => exact (show KeepsInputs (writeIe new) from fun s => (sameButLines_writeIe new s).inputs).agreeOn
  | irq => exact (show KeepsInputs (writeIrq new) from fun s => (sameButLines_writeIrq new s).inputs).agreeOn
  | blkcon => exact agreeOn_writeBlkcon h _

theorem agreeOn_busWrite (h : AgreeOn Q r r') (addr : Addr) (data : Byte) :
    AgreeOn Q (busWrite r addr data) (busWrite r' addr data) := fun s hs => by
  unfold busWrite
  cases locate s.desc addr with
  | none => exact (keepsInputs_emit _).agreeOn s hs
  | some rk => exact agreeOn_writeRegister h rk.1 _ s hs

theorem agreeOn_checked (c : FatalCode) {ok : State → Bool} (hf : KeepsInputs f) :
    AgreeOn Q (fun s => checked (ok s) c f s) (fun s => checked (ok s) c f s) :=
  hf.agreeOn.ite (c := fun s => ok s = true) (keepsInputs_raiseFatal c).agreeOn

/-- A command with one responder does what it does with another, where the two agree. -/
theorem agreeOn_perform (h : AgreeOn Q r r') (i : Instr) : AgreeOn Q (perform r i) (perform r' i) := by
  cases i with
  | cycle => exact agreeOn_runCycle h
  | rst => exact agreeOn_resetBlock h
  | brk => exact agreeOn_breakBlock h
  | accept => exact keepsInputs_acceptInterrupt.agreeOn
  | raiseRst => exact (keepsInputs_activate 0).agreeOn
  | raiseBrk => exact (keepsInputs_activate 1).agreeOn
  | raiseEmu => exact (keepsInputs_activate 2).agreeOn
  | raiseNmi => exact (keepsInputs_activate 3).agreeOn
  | raiseMi index => exact agreeOn_checked _ (keepsInputs_activate index)
  | raiseSw index => exact agreeOn_checked _ (keepsInputs_activate index)
  | clrNmi => exact (keepsInputs_deactivate 3).agreeOn
  | clrMi index => exact agreeOn_checked _ (keepsInputs_deactivate index)
  | reqNmi =>
    exact (keepsInputs_setPending 0 true).agreeOn.comp
      ((keepsInputs_activate 3).agreeOn.ite (c := fun s => s.ie.getLsbD 0 = true) agreeOn_id)
  | lineEn index flag => exact agreeOn_checked _ (show KeepsInputs (setEnabled index flag) from fun _ => ⟨rfl, rfl⟩)
  | lineTry index =>
    exact agreeOn_checked _ (show KeepsInputs (tryRaise index) from fun s => (sameButLines_tryRaise index s).inputs)
  | lineClr index =>
    exact agreeOn_checked _ (show KeepsInputs (resetInt index) from fun s => (sameButLines_resetInt index s).inputs)
  | wr addr data => exact agreeOn_busWrite h addr data
  | rd addr => exact (keepsInputs_busReadOut addr).agreeOn
  | runmode mode => exact (keepsInputs_setRunmode mode).agreeOn
  | miblk flag => exact (show KeepsInputs (setMiblk flag) from fun _ => ⟨rfl, rfl⟩).agreeOn

theorem agreeOn_runResponse (h : AgreeOn Q r r') (ws : Response) :
    AgreeOn Q (runResponse r ws) (runResponse r' ws) := by
  refine agreeOn_inOrder (List.forall₂_map_left_iff.mpr (List.forall₂_map_right_iff.mpr
    (List.forall₂_same.mpr fun w _ s hs => ?_)))
  unfold performWord
  cases decode w with
  | error e => exact (keepsInputs_raiseFatal _).agreeOn s hs
  | ok i => exact agreeOn_perform h i s hs

/-- A responder nested `n` deep does what one nested deeper does, while no more than `n` responses are listed:
each nested response is taken from the rest of the list. -/
theorem agreeOn_respondWithin {n m : Nat} (hnm : n ≤ m) :
    AgreeOn (fun _ rs => rs.length ≤ n) (respondWithin n) (respondWithin m) := by
  induction n generalizing m with
  | zero =>
    intro s hs
    exact ⟨(respondWithin_quiet m (List.eq_nil_of_length_eq_zero (Nat.le_zero.mp hs))).symm, hs⟩
  | succ n ih =>
    obtain ⟨m, rfl⟩ := Nat.exists_eq_add_of_le' (Nat.le_trans (Nat.le_add_left 1 n) hnm)
    intro s hs
    simp only [respondWithin]
    cases hr : s.responses with
    | nil => exact ⟨rfl, hs⟩
    | cons ws rest =>
      have hrest : rest.length ≤ n := by simpa [hr] using hs
      obtain ⟨heq, hlen⟩ := agreeOn_runResponse (ih (Nat.le_of_succ_le_succ hnm)) ws { s with responses := rest } hrest
      exact ⟨heq, Nat.le_succ_of_le hlen⟩

/-- The response to an event is the next one listed, with responses of its own from the rest (R9). -/
theorem respond_cons {s : State} {ws : Response} {rest : List Response} (h : s.responses = ws :: rest) :
    respond s = runResponse respond ws { s with responses := rest } := by
  have hfuel : AgreeOn (fun _ rs => rs.length ≤ rest.length) (respondWithin rest.length) respond := fun t ht =>
    ⟨((agreeOn_respondWithin ht) t (le_refl _)).1.symm, ((agreeOn_respondWithin (le_refl _)) t ht).2⟩
  have hunfold : respond s = runResponse (respondWithin rest.length) ws { s with responses := rest } := by
    simp [respond, h, respondWithin]
  rw [hunfold]
  exact (agreeOn_runResponse hfuel ws { s with responses := rest } (le_refl _)).1

/-- No response writes the descriptor (R42). -/
@[simp] theorem respond_desc (s : State) : (respond s).desc = s.desc :=
  have hperf : ∀ r : Responder, (∀ t, t.desc = s.desc → (r t).desc = s.desc) →
      ∀ i t, t.fatal = none → t.desc = s.desc → (perform r i t).desc = s.desc := fun r hr i t _ ht =>
    have hself : AgreeOn (fun d _ => d = s.desc) r r := fun t ht => ⟨rfl, hr t ht⟩
    (agreeOn_perform hself i t ht).2
  respondWithin_keeps (P := fun t => t.desc = s.desc) (fun _ _ _ _ h => h) (fun _ h => h) hperf _ rfl

end Sys2Proof.Machine
end

section
/-! PROOF. The words of a response (R9, R86), and the loops over peripherals with any responses, stated by the events
they emit (R8, R130, R240, R300). -/

namespace Sys2Proof.Machine

open Sys2Proof.Config

theorem performWord_of_command (r : Responder) {w : CommandWord} {i : Instr} (h : decode w = .ok i) (s : State) :
    performWord r w s = perform r i s := by rw [performWord, h]

theorem performWord_of_illegal (r : Responder) {w : CommandWord} {e : DecodeError} (h : decode w = .error e)
    (s : State) : performWord r w s = raiseFatal .illegalCommand s := by rw [performWord, h]

theorem raiseFatal_ne_none (c : FatalCode) (s : State) : (raiseFatal c s).fatal ≠ none := Option.some_ne_none c

/-- A word that raises a fatal error is the last of its response (R260). -/
theorem runResponse_of_raise {r : Responder} {w : CommandWord} {s : State} {c : FatalCode} (hf : s.fatal = none)
    (h : performWord r w s = raiseFatal c s) (ws : Response) : runResponse r (w :: ws) s = raiseFatal c s := by
  rw [runResponse_cons, unlessFatal_of_none hf, h, runResponse_of_faulted r ws (raiseFatal_ne_none c s)]

/-- The state after events depends only on which events are due to the peripherals up to there. -/
theorem afterEvents_congr {ev ev' : Nat → State → Option Event} {n : Nat} {s : State}
    (h : ∀ k < n, ∀ t, ev k t = ev' k t) : afterEvents ev n s = afterEvents ev' n s := by
  induction n with
  | zero => rfl
  | succ n ih =>
    rw [afterEvents_succ, afterEvents_succ, ih fun k hk => h k (Nat.lt_succ_of_lt hk), h n (Nat.lt_succ_self n)]

theorem noFatalThrough_congr {ev ev' : Nat → State → Option Event} {n : Nat} {s : State}
    (h : ∀ k < n, ∀ t, ev k t = ev' k t) (hn : NoFatalThrough ev n s) : NoFatalThrough ev' n s := fun j hj => by
  rw [← afterEvents_congr fun k hk => h k (Nat.lt_of_lt_of_le hk hj)]
  exact hn j hj

theorem firstFatalAt_congr {ev ev' : Nat → State → Option Event} {k : Nat} {s : State}
    (h : ∀ j ≤ k, ∀ t, ev j t = ev' j t) (hk : FirstFatalAt ev k s) : FirstFatalAt ev' k s := by
  refine ⟨noFatalThrough_congr (fun j hj => h j (Nat.le_of_lt hj)) hk.1, ?_⟩
  rw [← afterEvents_congr fun j hj => h j (Nat.le_of_lt_succ hj)]
  exact hk.2

/-- Events and their responses write no descriptor (R42). -/
@[simp] theorem afterEvents_desc (ev : Nat → State → Option Event) (n : Nat) (s : State) :
    (afterEvents ev n s).desc = s.desc := by
  induction n with
  | zero => rfl
  | succ n ih =>
    rw [afterEvents_succ]
    cases ev n (afterEvents ev n s) with
    | none => exact ih
    | some e => simpa [hookIfDue, hook] using ih

/-- A loop over all peripherals, for events given by the peripheral's index: it ends right after the first fatal
error, and otherwise after the last peripheral (R8, R260). -/
theorem eachPeripheral_afterEvents {due : Nat → Peripheral → State → Option Event}
    {ev : Nat → State → Option Event} {s : State} (hf : s.fatal = none)
    (hev : ∀ n p, s.desc.periphs[n]? = some p → ∀ t, due n p t = ev n t) :
    (∀ k, k < s.desc.periphs.length → FirstFatalAt ev k s →
        eachPeripheral (fun n p s => hookIfDue respond (due n p s) s) s = afterEvents ev (k + 1) s)
      ∧ (NoFatalThrough ev s.desc.periphs.length s →
        eachPeripheral (fun n p s => hookIfDue respond (due n p s) s) s
          = afterEvents ev s.desc.periphs.length s) := by
  have hby : ∀ n < s.desc.periphs.length, ∀ t, ev n t = byIndex s.desc.periphs due n t := fun n hn t => by
    have hp := List.getElem?_eq_getElem hn
    rw [byIndex, hp, Option.bind_some, hev n _ hp]
  obtain ⟨hall, hfirst⟩ := eachPeripheral_events due s hf
  refine ⟨fun k hk h => ?_, fun h => ?_⟩
  · have hle : ∀ j ≤ k, ∀ t, ev j t = byIndex s.desc.periphs due j t := fun j hj => hby j (by omega)
    rw [hfirst k hk (firstFatalAt_congr hle h), afterEvents_congr fun j hj => hle j (by omega)]
  · rw [hall (noFatalThrough_congr hby h), afterEvents_congr hby]

/-- The controller part of RST, whole (R130). -/
theorem resetController_eq (s : State) :
    resetController s = { s with act := 1, cnt := 1, ie := 0, irq := 0, len := 0 } := by
  have hslot : putBit 0#128 0 true = 1#128 := by decide
  simp [resetController, activate, isActive, hslot]

/-- RST with any responses (R130, R260). -/
theorem resetBlock_afterEvents {s : State} (hf : s.fatal = none) :
    (∀ k, k < s.desc.periphs.length → FirstFatalAt resetEvent k s →
        resetBlock respond s = afterEvents resetEvent (k + 1) s)
      ∧ (NoFatalThrough resetEvent s.desc.periphs.length s →
        resetBlock respond s = { afterEvents resetEvent s.desc.periphs.length s with
          act := 1, cnt := 1, ie := 0, irq := 0, len := 0 }) := by
  obtain ⟨hfirst, hall⟩ := eachPeripheral_afterEvents (due := fun n _ _ => some (.resetPeriph n)) (ev := resetEvent) hf
    fun _ _ _ _ => rfl
  have hseq : ∀ t, eachPeripheral (fun n _ => hook respond (.resetPeriph n)) s = t →
      resetBlock respond s = unlessFatal resetController t := fun t ht => by
    rw [resetBlock, inOrder_cons, unlessFatal_of_none hf, ht]; rfl
  refine ⟨fun k hk h => ?_, fun h => ?_⟩
  · rw [hseq _ (hfirst k hk h), unlessFatal_of_faulted h.2]
  · rw [hseq _ (hall h), unlessFatal_of_none (h _ (Nat.le_refl _)), resetController_eq]

/-- The two ways the hook of a block-bit transition is written agree (R240). -/
theorem blockTransition_eq (old new : Byte) (n : Nat) (p : Peripheral) :
    blockTransition old new n p = blockHook old new n p := by
  unfold blockTransition blockHook
  cases p.blkbit with
  | none => rfl
  | some b => cases ho : old.getLsbD b <;> cases hn : new.getLsbD b <;> simp [ho, hn]

/-- A write of BLKCON with any responses (R240, R260). -/
theorem writeBlkcon_afterEvents {s w : State} {data : Byte} {ev : Nat → State → Option Event} (hf : s.fatal = none)
    (hw : w = { s with blkcon := data &&& s.desc.blkValid })
    (hev : ev = blockEvent s.desc s.blkcon (data &&& s.desc.blkValid)) :
    (∀ k, k < s.desc.periphs.length → FirstFatalAt ev k w →
        writeBlkcon respond data s = afterEvents ev (k + 1) w)
      ∧ (NoFatalThrough ev s.desc.periphs.length w →
        writeBlkcon respond data s = afterEvents ev s.desc.periphs.length w) := by
  subst hw hev
  refine eachPeripheral_afterEvents
    (due := fun n p _ => blockTransition s.blkcon (data &&& s.desc.blkValid) n p)
    (s := { s with blkcon := data &&& s.desc.blkValid }) hf fun n p hp _ => ?_
  rw [blockTransition_eq, blockEvent, show s.desc.periphs[n]? = some p from hp, Option.bind_some]

/-- The byte a write puts at offset 0 (R64). -/
theorem setWidth_mergeByte_zero (old : BitVec 24) (data : Byte) : (mergeByte old 0 data).setWidth 8 = data := by
  apply BitVec.eq_of_getLsbD_eq
  intro i hi
  rw [BitVec.getLsbD_setWidth, getLsbD_mergeByte _ _ _ _ (by omega)]
  simp [hi]

/-- WR at the address of BLKCON is the write rule of BLKCON (R64, R74). -/
theorem exec_wr_blkcon {s : State} {addr : Addr} (data : Byte) (hf : s.fatal = none)
    (hd : legalDescriptor s.desc = true) (ha : AddressOf s.desc .blkcon 0 addr) :
    exec (.wr addr data) s = .next (writeBlkcon respond data s) := by
  rw [exec_of_ready _ hf, perform, busWrite, locate_of_addressOf hd ha]
  simp only [writeRegister, setWidth_mergeByte_zero]

/-- The check of construction on the declared block bits (R242). -/
theorem blockBitsOk_iff (d : Descriptor) :
    blockBitsOk d = true ↔ ∀ p ∈ d.periphs, ∀ b, p.blkbit = some b → b ≤ 7 ∧ d.blkValid.getLsbD b = true := by
  rw [blockBitsOk, List.all_eq_true]
  refine forall₂_congr fun p _ => ?_
  unfold blockBitOk
  cases p.blkbit <;> simp

/-- Construction of a legal descriptor with good block bits: the `Initialise` hooks, then RST (R300). -/
theorem powerOn_of_legal {d : Descriptor} (env : Environment) (hd : legalDescriptor d = true)
    (hb : blockBitsOk d = true) :
    powerOn d env = .next (unlessFatal (resetBlock respond)
      (eachPeripheral (fun n _ => hook respond (.initialise n)) (underConstruction d env))) := by
  rw [powerOn, if_pos hd, if_pos hb]; rfl

@[simp] theorem underConstruction_desc (d : Descriptor) (env : Environment) : (underConstruction d env).desc = d := rfl

/-- Construction with any responses (R300, R260). -/
theorem powerOn_afterEvents {d : Descriptor} {env : Environment} {u v : State} (hd : legalDescriptor d = true)
    (hb : blockBitsOk d = true) (hu : u = underConstruction d env)
    (hv : v = afterEvents initialiseEvent d.periphs.length u) :
    (∀ k, k < d.periphs.length → FirstFatalAt initialiseEvent k u →
        powerOn d env = .next (afterEvents initialiseEvent (k + 1) u))
      ∧ (NoFatalThrough initialiseEvent d.periphs.length u → powerOn d env = .next (resetBlock respond v)) := by
  subst hu hv
  obtain ⟨hfirst, hall⟩ := eachPeripheral_afterEvents (due := fun n _ _ => some (.initialise n))
    (ev := initialiseEvent) (s := underConstruction d env) rfl fun _ _ _ _ => rfl
  rw [underConstruction_desc] at hfirst hall
  have hseq : ∀ t, eachPeripheral (fun n _ => hook respond (.initialise n)) (underConstruction d env) = t →
      powerOn d env = .next (unlessFatal (resetBlock respond) t) := fun t ht => by
    rw [powerOn_of_legal env hd hb, ht]
  refine ⟨fun k hk h => ?_, fun h => ?_⟩
  · rw [hseq _ (hfirst k hk h), unlessFatal_of_faulted h.2]
  · rw [hseq _ (hall h), unlessFatal_of_none (h _ (Nat.le_refl _))]

/-- CYCLE while a cycle is in progress (R231). -/
theorem runCycle_of_incycle (r : Responder) {s : State} (h : s.incycle = true) :
    runCycle r s = raiseFatal .illegalCommand s := if_pos h

/-- Settles O9: `respond_cons` says where a nested response comes from, `runResponse_cons` in which order its words
are executed. -/
theorem responseIsExecutedInOrder : Obligations.ResponseIsExecutedInOrder := by
  refine ⟨fun s => respond_quiet, fun s ws rest => respond_cons, fun s => rfl, ?_, ?_,
    fun s ws => runResponse_of_faulted respond ws⟩
  · intro s w ws i hf hd
    refine ⟨perform respond i s, exec_of_ready i hf, ?_⟩
    rw [runResponse_cons, unlessFatal_of_none hf, performWord_of_command respond hd]
  · intro s w ws hf hrow
    obtain ⟨e, hd⟩ := decode_error_of_noRow hrow
    exact runResponse_of_raise hf (performWord_of_illegal respond hd s) ws

/-- Settles O58: each operation is its loop of hooks (`eachPeripheral_afterEvents`), and what follows the loop is
skipped exactly when a fatal error stands after it. -/
theorem fatalInAResponseEndsTheOperation : Obligations.FatalInAResponseEndsTheOperation := by
  refine ⟨?reset, ?write, ?construction, ?nested⟩
  case reset =>
    intro s hf
    rw [exec_of_ready .rst hf]
    obtain ⟨hfirst, hall⟩ := resetBlock_afterEvents hf
    exact ⟨fun k hk h => congrArg _ (hfirst k hk h), fun h => congrArg _ (hall h)⟩
  case write =>
    intro s w addr data ev hf hd ha hw hev
    rw [exec_wr_blkcon data hf hd ha]
    obtain ⟨hfirst, hall⟩ := writeBlkcon_afterEvents hf hw hev
    exact ⟨fun k hk h => congrArg _ (hfirst k hk h), fun h => congrArg _ (hall h)⟩
  case construction =>
    intro d env u v hd hbits hu hv
    obtain ⟨hfirst, hall⟩ := powerOn_afterEvents hd ((blockBitsOk_iff d).mpr hbits) hu hv
    have hdesc : v.desc = d := by rw [hv, afterEvents_desc, hu, underConstruction_desc]
    refine ⟨by rw [hu]; exact ⟨rfl, rfl, rfl, rfl, rfl, rfl, rfl, rfl, rfl⟩, hfirst, fun h => ?_⟩
    have hfv : v.fatal = none := hv ▸ h _ (Nat.le_refl _)
    obtain ⟨hrfirst, hrall⟩ := resetBlock_afterEvents hfv
    rw [hdesc] at hrfirst hrall
    rw [hall h]
    exact ⟨fun k hk h => congrArg _ (hrfirst k hk h), fun h => congrArg _ (hrall h)⟩
  case nested =>
    intro s w ws hf hc hd
    refine runResponse_of_raise hf ?_ ws
    rw [performWord_of_command respond hd]
    exact runCycle_of_incycle respond hc

end Sys2Proof.Machine
end

section
/-! PROOF. Steps and cycles by their cases: a step after a fatal error, the descriptor, and CYCLE with no cycle in
progress (R42, R230, R260). -/

namespace Sys2Proof.Machine

open Sys2Proof.Config

theorem inOrder_concat (fs : List (State → State)) (f : State → State) (s : State) :
    inOrder (fs ++ [f]) s = unlessFatal f (inOrder fs s) := by
  induction fs generalizing s with
  | nil => rfl
  | cons g fs ih => rw [List.cons_append, inOrder_cons, inOrder_cons, ih]

/-- CYCLE with no cycle in progress, from the clock advance on (R230). -/
theorem runCycle_of_idle (r : Responder) {s : State} (hf : s.fatal = none) (hc : s.incycle = false) :
    runCycle r s = inOrder [dispatchTicks r, arbitrate, tickAfterAll r, stepCore r, clearCycleFlags]
      (clockAdvance (beginCycle s)) := by
  have hbegin : (beginCycle s).fatal = none := hf
  rw [runCycle, hc, if_neg Bool.false_ne_true, inOrder_cons, inOrder_cons, unlessFatal_of_none hf,
    unlessFatal_of_none hbegin]

/-- No command writes the descriptor, with a responder that does not (R42). -/
theorem perform_desc {r : Responder} {d : Descriptor} (hr : ∀ s, s.desc = d → (r s).desc = d) (i : Instr)
    {s : State} (hs : s.desc = d) : (perform r i s).desc = d :=
  have hself : AgreeOn (fun d' _ => d' = d) r r := fun t ht => ⟨rfl, hr t ht⟩
  (agreeOn_perform hself i s hs).2

/-- Settles O10: the responses keep the descriptor since every command does (`step_keeps`, `perform_desc`). -/
theorem descriptorNeverChanges : Obligations.DescriptorNeverChanges := fun s _ hst =>
  step_keeps (P := fun t => t.desc = s.desc) (fun _ _ h => h) (fun _ _ _ _ h => h) (fun _ h => h)
    (fun _ hr i _ _ ht => perform_desc hr i ht) rfl hst

/-- After a fatal error a step only takes the presented word (R40, R260). -/
theorem step_of_faulted {s : State} (h : s.fatal ≠ none) : step s = .next { s with port := s.port.tail } := by
  rcases step_cases s with ⟨hp, e⟩ | ⟨w, rest, i, hp, -, e⟩ | ⟨w, rest, _, hp, -, e⟩ <;> rw [e, hp, List.tail]
  · rw [← hp]
  · exact exec_of_faulted i h
  · exact congrArg Host.Outcome.next (unlessFatal_of_faulted h)

/-- Settles O7: neither half depends on the command or on the word, only on `unlessFatal`. -/
theorem fatalIsForEver : Obligations.FatalIsForEver := fun _ h => ⟨fun i => exec_of_faulted i h, step_of_faulted h⟩

end Sys2Proof.Machine
end

section
/-! PROOF. What the primitive operations on the state keep, every command keeps: the walk over the twenty commands
(R84), with any responder, done once for any predicate on the state. -/

namespace Sys2Proof.Machine

open Sys2Proof.Config

/-- Wherever `P` holds, it holds after `f`. -/
def Keeps (P : State → Prop) (f : State → State) : Prop := ∀ s, P s → P (f s)

/-- `P` is kept by each primitive write that the operations other than CYCLE are made of. A shadow bit is written
only where the variant has it (R23, R26), a register only under its valid mask. -/
structure KeptByPrimitives (P : State → Prop) : Prop where
  raiseFatal : ∀ c, Keeps P (raiseFatal c)
  emit : ∀ e, Keeps P (emit e)
  samplePorts : Keeps P samplePorts
  activate : ∀ l, Keeps P (activate l)
  deactivate : ∀ l, Keeps P (deactivate l)
  setPending : ∀ k b s, k ≤ lineCount s.desc → P s → P (setPending k b s)
  setEnabled : ∀ l b s, isEffective s.desc l = true → P s → P (setEnabled l b s)
  storeIe : ∀ v, Keeps P (fun s => { s with ie := v &&& ieValid s.desc })
  storeIrq : ∀ v, Keeps P (fun s => { s with irq := v &&& irqValid s.desc })
  storeBlkcon : ∀ v, Keeps P (fun s => { s with blkcon := v &&& s.desc.blkValid })
  storeRunmode : ∀ m, Keeps P (fun s => { s with runmode := m })
  setMiblk : ∀ b, Keeps P (setMiblk b)
  resetController : Keeps P resetController
  writeOsccfg : ∀ v, Keeps P (writeOsccfg v)
  writeLsrst : Keeps P writeLsrst
  writeHsrst : Keeps P writeHsrst
  writeAdj : ∀ v, Keeps P (writeAdj v)

variable {P : State → Prop} {r : Responder}

theorem Keeps.unlessFatal {f : State → State} (hf : ∀ s, s.fatal = none → P s → P (f s)) :
    Keeps P (unlessFatal f) := fun s hs => by
  by_cases hn : s.fatal = none
  · rw [unlessFatal_of_none hn]; exact hf s hn hs
  · rw [unlessFatal_of_faulted hn]; exact hs

theorem keeps_eachPeripheral {f : Nat → Peripheral → State → State} (hf : ∀ n p, Keeps P (f n p)) :
    Keeps P (eachPeripheral f) := fun s hs => eachFrom_keeps (fun n p t _ => hf n p t) 0 s.desc.periphs hs

/-- The loop over the shadow bits 1..N; its body may use that the bit is one of them, as it writes no descriptor. -/
theorem keeps_eachShadowBit {f : Nat → State → State} (hlines : ∀ k t, SameButLines t (f k t))
    (hf : ∀ k t, 1 ≤ k → k ≤ lineCount t.desc → P t → P (f k t)) : Keeps P (eachShadowBit f) := fun s hs => by
  have hboth : (eachShadowBit f s).desc = s.desc ∧ P (eachShadowBit f s) :=
    eachShadowBit_keeps (P := fun t => t.desc = s.desc ∧ P t)
      (fun k t h1 hk ⟨hd, ht⟩ => ⟨(hlines k t).inputs.1.trans hd, hf k t h1 (hd ▸ hk) ht⟩) ⟨rfl, hs⟩
  exact hboth.2

theorem isEffective_lineOfBit {d : Descriptor} {k : Nat} (h1 : 1 ≤ k) (hk : k ≤ lineCount d) :
    isEffective d (lineOfBit k) = true := by
  rw [isEffective_iff, toNat_lineOfBit hk]; omega

namespace KeptByPrimitives

theorem checked (hP : KeptByPrimitives P) {f : State → State} {ok : Bool} (c : FatalCode) {s : State} (hs : P s)
    (hf : ok = true → P (f s)) : P (checked ok c f s) := by
  cases ok with
  | true => exact hf rfl
  | false => exact hP.raiseFatal c s hs

theorem hook (hP : KeptByPrimitives P) (hr : Keeps P r) (e : Event) : Keeps P (hook r e) :=
  fun s hs => hr _ (hP.emit e s hs)

theorem hookIfDue (hP : KeptByPrimitives P) (hr : Keeps P r) (e : Option Event) : Keeps P (hookIfDue r e) := by
  cases e with
  | none => exact fun _ hs => hs
  | some e => exact hP.hook hr e

theorem eachHook (hP : KeptByPrimitives P) (hr : Keeps P r) (ev : Nat → Event) :
    Keeps P (eachPeripheral fun n _ => Machine.hook r (ev n)) := keeps_eachPeripheral fun n _ => hP.hook hr (ev n)

theorem tryRaise (hP : KeptByPrimitives P) {l : Line} {s : State} (hl : isEffective s.desc l = true) (hs : P s) :
    P (tryRaise l s) := by
  have hpend := hP.setPending (shadowBit l) true s (shadowBit_bounds hl).2.1 hs
  rcases tryRaise_cases l s with ⟨-, h⟩ | ⟨-, h⟩ <;> rw [h]
  · exact hP.activate l _ hpend
  · exact hpend

theorem resetInt (hP : KeptByPrimitives P) {l : Line} {s : State} (hl : isEffective s.desc l = true) (hs : P s) :
    P (resetInt l s) :=
  hP.deactivate l _ (hP.setPending (shadowBit l) false s (shadowBit_bounds hl).2.1 hs)

theorem requestNonmaskable (hP : KeptByPrimitives P) : Keeps P requestNonmaskable := fun s hs => by
  have hpend := hP.setPending 0 true s (Nat.zero_le _) hs
  rcases requestNonmaskable_cases s with ⟨-, h⟩ | ⟨-, h⟩ <;> rw [h]
  · exact hP.activate 3 _ hpend
  · exact hpend

theorem deliver (hP : KeptByPrimitives P) (l : Line) : Keeps P (deliver l) := fun s hs => by
  have hclear : P (clearPendingOf l s) := by
    unfold clearPendingOf
    split
    · exact hP.setPending 0 false s (Nat.zero_le _) hs
    · split
      · next hl => exact hP.setPending (shadowBit l) false s (shadowBit_bounds hl).2.1 hs
      · exact hs
  exact hP.storeRunmode _ _ (hP.emit _ _ (hP.deactivate l _ hclear))

theorem acceptInterrupt (hP : KeptByPrimitives P) : Keeps P acceptInterrupt := fun s hs => by
  have hsample : P (sampled s) := samplePorts_eq s ▸ hP.samplePorts s hs
  rcases acceptInterrupt_cases s with ⟨-, h⟩ | ⟨-, -, h⟩ | ⟨l, -, -, h⟩ <;> rw [h]
  · exact hs
  · exact hsample
  · refine hP.deliver l _ ?_
    unfold diagnoseNested
    split
    · exact hP.emit _ _ hsample
    · exact hsample

theorem resetBlock (hP : KeptByPrimitives P) (hr : Keeps P r) : Keeps P (resetBlock r) := fun s hs =>
  Keeps.unlessFatal (fun t _ => hP.resetController t) _
    (Keeps.unlessFatal (fun t _ => hP.eachHook hr .resetPeriph t) s hs)

theorem breakBlock (hP : KeptByPrimitives P) (hr : Keeps P r) : Keeps P (breakBlock r) := fun s hs => by
  have hsample := hP.samplePorts s hs
  unfold Machine.breakBlock
  dsimp only
  split
  · exact hP.resetBlock hr _ hsample
  · exact hP.activate 1 _ hsample

/-- What both shadow-register writes end with: the non-maskable line (R162, R164). -/
theorem nonmaskableLine (hP : KeptByPrimitives P) {s : State} (hs : P s) (v b : Bool) :
    P (if v then if b then raiseNonmaskable s else s else resetNonmaskable s) := by
  split
  · split
    · exact hP.activate 3 s hs
    · exact hs
  · exact hP.deactivate 3 s hs

theorem writeIe (hP : KeptByPrimitives P) (new : BitVec 24) : Keeps P (writeIe new) := fun s hs => by
  refine hP.nonmaskableLine (keeps_eachShadowBit (fun k t => ?_) (fun k t h1 hk ht => ?_) _
    (hP.storeIe (new.setWidth 22) s hs)) _ _
  · rfl
  · exact hP.setEnabled (lineOfBit k) _ t (isEffective_lineOfBit h1 hk) ht

theorem writeIrq (hP : KeptByPrimitives P) (new : BitVec 24) : Keeps P (writeIrq new) := fun s hs => by
  refine hP.nonmaskableLine (keeps_eachShadowBit (fun k t => ?_) (fun k t h1 hk ht => ?_) _
    (hP.storeIrq (new.setWidth 22) s hs)) _ _
  · split
    · exact sameButLines_tryRaise _ t
    · exact sameButLines_resetInt _ t
  · have hl := isEffective_lineOfBit h1 hk
    split
    · exact hP.tryRaise hl ht
    · exact hP.resetInt hl ht

theorem writeRegister (hP : KeptByPrimitives P) (hr : Keeps P r) (reg : Reg) (new : BitVec 24) :
    Keeps P (writeRegister r reg new) := by
  cases reg with
  | osccfg => exact hP.writeOsccfg _
  | lsrst => exact hP.writeLsrst
  | hsrst => exact hP.writeHsrst
  | adj => exact hP.writeAdj _
  | ie => exact hP.writeIe new
  | irq => exact hP.writeIrq new
  | blkcon =>
    exact fun s hs => keeps_eachPeripheral (fun n p => hP.hookIfDue hr _) _ (hP.storeBlkcon (new.setWidth 8) s hs)

theorem busWrite (hP : KeptByPrimitives P) (hr : Keeps P r) (addr : Addr) (data : Byte) :
    Keeps P (busWrite r addr data) := fun s hs => by
  unfold Machine.busWrite
  split
  · exact hP.writeRegister hr _ _ s hs
  · exact hP.emit _ s hs

theorem busReadOut (hP : KeptByPrimitives P) (addr : Addr) : Keeps P (busReadOut addr) := fun s hs => by
  unfold Machine.busReadOut
  split <;> exact hP.emit _ s hs

theorem setRunmode (hP : KeptByPrimitives P) (mode : BitVec 2) : Keeps P (setRunmode mode) := fun s hs => by
  unfold Machine.setRunmode
  split
  · exact hP.storeRunmode _ s hs
  · exact hP.raiseFatal _ s hs

/-- CYCLE after its clock advance: the steps 2 to 4 of R230 are made of primitives and hooks, so only the two ends of
a cycle are left to a predicate. -/
theorem runCycle (hP : KeptByPrimitives P) (hr : Keeps P r) {s : State} (hf : s.fatal = none) (hs : P s)
    (hadvance : s.incycle = false → P (clockAdvance (beginCycle s))) (hclear : Keeps P clearCycleFlags) :
    P (runCycle r s) := by
  cases hc : s.incycle with
  | true =>
    rw [runCycle_of_incycle r hc]
    exact hP.raiseFatal _ s hs
  | false =>
    have hdispatch : Keeps P (dispatchTicks r) := keeps_eachPeripheral fun _ _ t => hP.hookIfDue hr _ t
    have harbitrate : Keeps P arbitrate := fun t ht => by
      unfold arbitrate
      split
      · exact ht
      · exact hP.acceptInterrupt t ht
    have hstep : Keeps P (stepCore r) := fun t ht => by
      unfold stepCore
      split
      · exact hP.hook hr .step t ht
      · exact ht
    have hrest : Keeps P (inOrder [dispatchTicks r, arbitrate, tickAfterAll r, stepCore r, clearCycleFlags]) :=
      fun t ht => inOrder_keeps (by
        simpa using ⟨fun u _ => hdispatch u, fun u _ => harbitrate u, fun u _ => hP.eachHook hr .tickAfterInterrupts u,
          fun u _ => hstep u, fun u _ => hclear u⟩) ht
    rw [runCycle_of_idle r hf hc]
    exact hrest _ (hadvance hc)

/-- The walk over the commands, CYCLE left to the predicate. -/
theorem perform (hP : KeptByPrimitives P) (hr : Keeps P r)
    (hcycle : ∀ s, s.fatal = none → P s → P (Machine.runCycle r s)) (i : Instr) {s : State} (hf : s.fatal = none)
    (hs : P s) : P (perform r i s) := by
  cases i with
  | cycle => exact hcycle s hf hs
  | rst => exact hP.resetBlock hr s hs
  | brk => exact hP.breakBlock hr s hs
  | accept => exact hP.acceptInterrupt s hs
  | raiseRst => exact hP.activate 0 s hs
  | raiseBrk => exact hP.activate 1 s hs
  | raiseEmu => exact hP.activate 2 s hs
  | raiseNmi => exact hP.activate 3 s hs
  | raiseMi index => exact hP.checked _ hs fun _ => hP.activate index s hs
  | raiseSw index => exact hP.checked _ hs fun _ => hP.activate index s hs
  | clrNmi => exact hP.deactivate 3 s hs
  | clrMi index => exact hP.checked _ hs fun _ => hP.deactivate index s hs
  | reqNmi => exact hP.requestNonmaskable s hs
  | lineEn index flag => exact hP.checked _ hs fun hl => hP.setEnabled index flag s hl hs
  | lineTry index => exact hP.checked _ hs fun hl => hP.tryRaise hl hs
  | lineClr index => exact hP.checked _ hs fun hl => hP.resetInt hl hs
  | wr addr data => exact hP.busWrite hr addr data s hs
  | rd addr => exact hP.busReadOut addr s hs
  | runmode mode => exact hP.setRunmode mode s hs
  | miblk flag => exact hP.setMiblk flag s hs

/-- What the primitives and CYCLE keep, a whole step keeps, with whatever responses (R9). -/
theorem step (hP : KeptByPrimitives P) (hport : ∀ s rest, P s → P { s with port := rest })
    (hpop : ∀ s rest, P s → P { s with responses := rest })
    (hcycle : ∀ r, Keeps P r → ∀ s, s.fatal = none → P s → P (Machine.runCycle r s)) {s t : State} (hs : P s)
    (hst : step s = .next t) : P t :=
  step_keeps hport (fun s _ rest _ => hpop s rest) (hP.raiseFatal _)
    (fun r hr i _ hf hs => hP.perform hr (hcycle r hr) i hf hs) hs hst

end KeptByPrimitives

end Sys2Proof.Machine
end

section
/-! PROOF. The invariant of R43: each part of it under the operations that write what it speaks of, then the whole
invariant along every step and at reset. -/

namespace Sys2Proof.Machine

open Sys2Proof.Config

/-! ### Masks: `v &&& ~~~m = 0` says that `v` has no bit outside `m` -/

theorem and_not_eq_zero_iff {w : Nat} {v m : BitVec w} :
    v &&& ~~~m = 0 ↔ ∀ j < w, v.getLsbD j = true → m.getLsbD j = true := by
  constructor
  · intro h j hj hv
    have hbit := congrArg (·.getLsbD j) h
    simpa [hv, hj] using hbit
  · intro h
    apply BitVec.eq_of_getLsbD_eq
    intro j hj
    cases hv : v.getLsbD j with
    | false => simp [hv]
    | true => simp [hv, h j hj hv]

theorem and_and_not_self {w : Nat} (v m : BitVec w) : v &&& m &&& ~~~m = 0 :=
  and_not_eq_zero_iff.mpr fun j _ hj => by rw [BitVec.getLsbD_and, Bool.and_eq_true] at hj; exact hj.2

/-- Writing a bit that the mask allows keeps a value inside the mask. -/
theorem putBit_and_not {w : Nat} {v m : BitVec w} {k : Nat} (b : Bool) (hk : k < w) (hm : m.getLsbD k = true)
    (h : v &&& ~~~m = 0) : putBit v k b &&& ~~~m = 0 := by
  rw [and_not_eq_zero_iff] at h ⊢
  intro j hj hbit
  rw [getLsbD_putBit v k j b hk] at hbit
  by_cases hjk : j = k
  · exact hjk ▸ hm
  · exact h j hj (by rwa [if_neg hjk] at hbit)

theorem irqValid_and_not (d : Descriptor) (v : Shadow) : v &&& irqValid d &&& ~~~shadowMask d = 0 :=
  and_not_eq_zero_iff.mpr fun j _ hj => by
    rw [BitVec.getLsbD_and, Bool.and_eq_true] at hj
    simpa [getLsbD_shadowMask] using le_of_irqValid hj.2

/-- The bits of `LEN` that exist are those of the effective lines (R23). -/
theorem getLsbD_lenMask {d : Descriptor} {l : Line} (hl : isEffective d l = true) :
    (shadowMask d &&& ~~~1#22).getLsbD (shadowBit l) = true := by
  obtain ⟨hlo, hhi, hlt⟩ := shadowBit_bounds hl
  have hpos : shadowBit l ≠ 0 := by omega
  rw [BitVec.getLsbD_and, BitVec.getLsbD_not, BitVec.getLsbD_one, getLsbD_shadowMask]
  simp [hhi, hlt, hpos]

/-! ### The slot counter (I1) -/

theorem counterAgrees_activate (l : Line) (s : State) (h : s.CounterAgrees) : (activate l s).CounterAgrees := by
  unfold activate
  cases ha : isActive s l with
  | true => exact h
  | false =>
    have hcount := activeCount_putBit s.act l.toNat l.isLt true
    have hle := activeCount_le (putBit s.act l.toNat true)
    rw [show s.act.getLsbD l.toNat = false from ha] at hcount
    simp only [Bool.toNat_false, Bool.toNat_true] at hcount
    show (s.cnt + 1).toNat = activeCount (putBit s.act l.toNat true)
    rw [BitVec.toNat_add, h]
    simp only [BitVec.ofNat_eq_ofNat, BitVec.toNat_ofNat]
    omega

theorem counterAgrees_deactivate (l : Line) (s : State) (h : s.CounterAgrees) : (deactivate l s).CounterAgrees := by
  unfold deactivate
  cases ha : isActive s l with
  | false => exact h
  | true =>
    have hcount := activeCount_putBit s.act l.toNat l.isLt false
    have hle := activeCount_le (putBit s.act l.toNat false)
    rw [show s.act.getLsbD l.toNat = true from ha] at hcount
    simp only [Bool.toNat_false, Bool.toNat_true] at hcount
    show (s.cnt - 1).toNat = activeCount (putBit s.act l.toNat false)
    rw [BitVec.toNat_sub, h]
    simp only [BitVec.ofNat_eq_ofNat, BitVec.toNat_ofNat]
    omega

/-! ### The counters of the clock generator (I4) -/

/-- `CPS >= 32768` makes the nominal interval at least two cycles, so a corrected one is never empty (R204). -/
theorem lsNom_bounds {d : Descriptor} (hd : legalDescriptor d = true) : 2 ≤ lsNom d ∧ lsNom d + 1 < 2 ^ 32 := by
  obtain ⟨hcps, -, -, -, -, hnom⟩ := (legalDescriptor_iff d).mp hd
  exact ⟨by unfold lsNom baseFreq; omega, hnom⟩

theorem lsSubsteps_bounds {d : Descriptor} (hd : legalDescriptor d = true) : 1 ≤ d.lsSubsteps ∧ d.lsSubsteps ≤ 128 := by
  obtain ⟨-, -, -, hlo, hhi, -⟩ := (legalDescriptor_iff d).mp hd
  exact ⟨hlo, hhi⟩

theorem hsdiv_le (s : State) : hsdiv s ≤ 64 := Nat.pow_le_pow_right (by omega) (Nat.min_le_right _ 6)

theorem hscnt_zero_inRange : (0 : BitVec 7).toNat < 64 := by decide

theorem countersInRange_countSystemTick {s : State} (h : s.CountersInRange) : (countSystemTick s).CountersInRange := by
  unfold countSystemTick; split <;> exact h

theorem countersInRange_advanceHsOutput {s : State} (h : s.CountersInRange) : (advanceHsOutput s).CountersInRange := by
  unfold advanceHsOutput
  split
  · exact h
  · split <;> exact h

theorem countersInRange_advanceHighSpeed {s : State} (h : s.CountersInRange) :
    (advanceHighSpeed s).CountersInRange := by
  obtain ⟨-, hlow⟩ := h
  unfold advanceHighSpeed
  split
  · exact countersInRange_advanceHsOutput (countersInRange_countSystemTick ⟨hscnt_zero_inRange, hlow⟩)
  · next hlt =>
    have hdiv := hsdiv_le s
    exact ⟨by simp only [BitVec.toNat_ofNat]; omega, hlow⟩

theorem countersInRange_advanceDrift {s : State} (h : s.CountersInRange) : (advanceDrift s).CountersInRange := by
  unfold advanceDrift
  dsimp only
  split
  · exact h
  · split <;> exact h

theorem countersInRange_advanceLsOutput {s : State} (hd : legalDescriptor s.desc = true) (h : s.CountersInRange) :
    (advanceLsOutput s).CountersInRange := by
  obtain ⟨hhs, hsub, hlen⟩ := h
  obtain ⟨hpos, hle⟩ := lsSubsteps_bounds hd
  unfold advanceLsOutput
  split
  · exact ⟨hhs, hsub, hlen⟩
  · split
    · exact ⟨hhs, hpos, hlen⟩
    · exact ⟨hhs, by simp only [BitVec.toNat_ofNat]; omega, hlen⟩

/-- The next interval, with its correction, is not empty and fits `LSLEN` (R206). -/
theorem toNat_correctedInterval {d : Descriptor} (hd : legalDescriptor d = true) (c : Correction) :
    ((BitVec.ofInt 32 ((lsNom d : Int) + correctionCycles c)).toNat : Int) = lsNom d + correctionCycles c := by
  obtain ⟨hlo, hhi⟩ := lsNom_bounds hd
  rw [BitVec.toNat_ofInt]
  cases c <;> simp only [correctionCycles] <;> omega

theorem correctionCycles_bounds (c : Correction) : -1 ≤ correctionCycles c ∧ correctionCycles c ≤ 1 := by
  cases c <;> decide

theorem countersInRange_advanceInterval {s : State} (hd : legalDescriptor s.desc = true) (h : s.CountersInRange) :
    (advanceInterval s).CountersInRange := by
  obtain ⟨hhs, hsub, hlo, hhi, hcnt⟩ := h
  unfold advanceInterval
  split
  · have hlen := toNat_correctedInterval hd s.lscorr
    have hcorr := correctionCycles_bounds s.lscorr
    have hnom := lsNom_bounds hd
    refine countersInRange_advanceLsOutput hd ⟨hhs, hsub, ?_, ?_, ?_⟩
    · show lsNom s.desc ≤ (BitVec.ofInt 32 _).toNat + 1
      omega
    · show (BitVec.ofInt 32 _).toNat ≤ lsNom s.desc + 1
      omega
    · show (0#32).toNat < (BitVec.ofInt 32 _).toNat
      simp only [BitVec.toNat_ofNat]; omega
  · refine ⟨hhs, hsub, hlo, hhi, ?_⟩
    simp only [BitVec.toNat_ofNat]; omega

theorem countersInRange_clockAdvance {s : State} (hd : legalDescriptor s.desc = true) (h : s.CountersInRange) :
    (clockAdvance s).CountersInRange := by
  have hhigh : (advanceHighSpeed (latchResetPulses s)).CountersInRange := countersInRange_advanceHighSpeed h
  have hdesc : (advanceDrift (advanceHighSpeed (latchResetPulses s))).desc = s.desc :=
    ((sameButClock_advanceHighSpeed _).trans (sameButClock_advanceDrift _)).inputs.1
  unfold clockAdvance advanceLowSpeed
  split
  · exact countersInRange_advanceInterval (hdesc ▸ hd) (countersInRange_advanceDrift hhigh)
  · exact hhigh

/-! ### The invariant inside a command -/

/-- The invariant at any point of a command, in a cycle too: while a cycle is in progress the per-cycle flags may be
set. It holds of every state a response can see, which `State.Inv` does not. -/
structure Sound (s : State) : Prop where
  legal : legalDescriptor s.desc = true
  counter : s.CounterAgrees
  shadows : s.ShadowsValid
  counters : s.CountersInRange
  registers : s.RegistersValid
  flags : s.fatal = none → s.incycle = false → s.CycleFlagsClear

/-- No cycle is in progress, unless a fatal error ended it where it stood. -/
def IdleOrFaulted (s : State) : Prop := s.fatal = none → s.incycle = false

theorem inv_iff (s : State) : s.Inv ↔ Sound s ∧ IdleOrFaulted s := by
  constructor
  · rintro ⟨hd, hcnt, hsh, hctr, hreg, hq⟩
    exact ⟨⟨hd, hcnt, hsh, hctr, hreg, fun hf _ => (hq hf).2⟩, fun hf => (hq hf).1⟩
  · rintro ⟨⟨hd, hcnt, hsh, hctr, hreg, hfl⟩, hidle⟩
    exact ⟨hd, hcnt, hsh, hctr, hreg, fun hf => ⟨hidle hf, hfl hf (hidle hf)⟩⟩

theorem sound_activate (l : Line) : Keeps Sound (activate l) := fun s h => by
  have hcnt := counterAgrees_activate l s h.counter
  rw [activate_frame] at hcnt ⊢
  exact { h with counter := hcnt }

theorem sound_deactivate (l : Line) : Keeps Sound (deactivate l) := fun s h => by
  have hcnt := counterAgrees_deactivate l s h.counter
  rw [deactivate_frame] at hcnt ⊢
  exact { h with counter := hcnt }

theorem sound_samplePorts : Keeps Sound samplePorts := fun s h => by
  rw [samplePorts_eq]
  exact { h with }

theorem sound_setPending {k : Nat} (b : Bool) {s : State} (hk : k ≤ lineCount s.desc) (h : Sound s) :
    Sound (setPending k b s) := by
  obtain ⟨hie, hirq, hlen⟩ := h.shadows
  have hk22 : k < 22 := by have := lineCount_bounds s.desc; omega
  exact { h with shadows := ⟨hie, putBit_and_not b hk22 (by simpa [getLsbD_shadowMask] using hk) hirq, hlen⟩ }

theorem sound_setEnabled {l : Line} (b : Bool) {s : State} (hl : isEffective s.desc l = true) (h : Sound s) :
    Sound (setEnabled l b s) := by
  obtain ⟨hie, hirq, hlen⟩ := h.shadows
  exact { h with shadows := ⟨hie, hirq, putBit_and_not b (shadowBit_bounds hl).2.2 (getLsbD_lenMask hl) hlen⟩ }

theorem sound_storeIe (v : Shadow) : Keeps Sound (fun s => { s with ie := v &&& ieValid s.desc }) := fun _ h =>
  { h with shadows := ⟨and_and_not_self _ _, h.shadows.2⟩ }

theorem sound_storeIrq (v : Shadow) : Keeps Sound (fun s => { s with irq := v &&& irqValid s.desc }) := fun s h => by
  obtain ⟨hie, -, hlen⟩ := h.shadows
  exact { h with shadows := ⟨hie, irqValid_and_not s.desc v, hlen⟩ }

theorem sound_storeBlkcon (v : Byte) : Keeps Sound (fun s => { s with blkcon := v &&& s.desc.blkValid }) := fun _ h =>
  { h with registers := ⟨h.registers.1, and_and_not_self _ _⟩ }

theorem activeCount_resetLine : activeCount 1 = 1 := by decide

theorem sound_resetController : Keeps Sound resetController := fun s h => by
  rw [resetController_eq]
  exact { h with
    counter := activeCount_resetLine.symm
    shadows := ⟨BitVec.zero_and, BitVec.zero_and, BitVec.zero_and⟩ }

theorem sound_writeOsccfg (v : Byte) : Keeps Sound (writeOsccfg v) := fun _ h =>
  { h with registers := ⟨and_and_not_self _ _, h.registers.2⟩ }

theorem toNat_nominalInterval {d : Descriptor} (hd : legalDescriptor d = true) :
    (BitVec.ofNat 32 (lsNom d)).toNat = lsNom d := by
  have := lsNom_bounds hd
  rw [BitVec.toNat_ofNat]; omega

/-- The low-speed counters as LSRST and power-on set them are in range (R211, R45). -/
theorem countersInRange_of_nominal {s : State} (hd : legalDescriptor s.desc = true) (hhs : s.hscnt.toNat < 64)
    (hsub : s.lssub = 0) (hcnt : s.lscnt = 0) (hlen : s.lslen = BitVec.ofNat 32 (lsNom s.desc)) :
    s.CountersInRange := by
  obtain ⟨hnom, -⟩ := lsNom_bounds hd
  obtain ⟨hpos, -⟩ := lsSubsteps_bounds hd
  simp only [State.CountersInRange, hsub, hcnt, hlen, toNat_nominalInterval hd, BitVec.ofNat_eq_ofNat,
    BitVec.toNat_ofNat, Nat.zero_mod]
  omega

theorem sound_writeLsrst : Keeps Sound writeLsrst := fun _ h =>
  { h with
    counters := countersInRange_of_nominal h.legal h.counters.1 rfl rfl rfl
    flags := fun hf hc => by
      obtain ⟨hhs, hsys, hls, hrls, hrhs, hedge, -⟩ := h.flags hf hc
      exact ⟨hhs, hsys, hls, hrls, hrhs, hedge, rfl⟩ }

theorem sound_writeHsrst : Keeps Sound writeHsrst := fun _ h =>
  { h with
    counters := ⟨hscnt_zero_inRange, h.counters.2⟩
    flags := fun hf hc => by
      obtain ⟨hhs, hsys, hls, hrls, hrhs, -, hedge⟩ := h.flags hf hc
      exact ⟨hhs, hsys, hls, hrls, hrhs, rfl, hedge⟩ }

theorem sound_keptByPrimitives : KeptByPrimitives Sound where
  raiseFatal _ _ h := { h with flags := fun hf => nomatch hf }
  emit _ _ h := { h with }
  samplePorts := sound_samplePorts
  activate := sound_activate
  deactivate := sound_deactivate
  setPending _ b _ := sound_setPending b
  setEnabled _ b _ := sound_setEnabled b
  storeIe := sound_storeIe
  storeIrq := sound_storeIrq
  storeBlkcon := sound_storeBlkcon
  storeRunmode _ _ h := { h with }
  setMiblk _ _ h := { h with }
  resetController := sound_resetController
  writeOsccfg := sound_writeOsccfg
  writeLsrst := sound_writeLsrst
  writeHsrst := sound_writeHsrst
  writeAdj _ _ h := { h with }

/-- Step 1 of a cycle sets flags, which `Sound` allows since the cycle is in progress. -/
theorem sound_clockAdvance_beginCycle {s : State} (h : Sound s) : Sound (clockAdvance (beginCycle s)) := by
  have hctr := countersInRange_clockAdvance (s := beginCycle s) h.legal h.counters
  have hframe : SameButClock (beginCycle s) (clockAdvance (beginCycle s)) := sameButClock_clockAdvance _
  rw [hframe] at hctr ⊢
  exact { h with counters := hctr, flags := fun _ hc => nomatch hc }

theorem sound_clearCycleFlags : Keeps Sound clearCycleFlags := fun _ h =>
  { h with flags := fun _ _ => ⟨rfl, rfl, rfl, rfl, rfl, rfl, rfl⟩ }

theorem step_keeps_sound {s t : State} (h : Sound s) (hst : step s = .next t) : Sound t :=
  sound_keptByPrimitives.step (fun _ _ h => { h with }) (fun _ _ h => { h with })
    (fun _ hr _ hf hs => sound_keptByPrimitives.runCycle hr hf hs (fun _ => sound_clockAdvance_beginCycle hs)
      sound_clearCycleFlags) h hst

/-! ### No cycle in progress between commands -/

/-- A write that leaves `FATAL` and `INCYCLE` alone keeps whether a cycle is in progress. -/
theorem IdleOrFaulted.congr {s t : State} (hf : t.fatal = s.fatal) (hc : t.incycle = s.incycle)
    (h : IdleOrFaulted s) : IdleOrFaulted t := fun hn => hc.trans (h (hf.symm.trans hn))

theorem idleOrFaulted_keptByPrimitives : KeptByPrimitives IdleOrFaulted where
  raiseFatal _ _ _ := fun hf => nomatch hf
  emit _ _ h := h
  samplePorts s h := h.congr (samplePorts_fatal s) (samplePorts_incycle s)
  activate l s h := h.congr (activate_fatal s l) (activate_incycle s l)
  deactivate l s h := h.congr (deactivate_fatal s l) (deactivate_incycle s l)
  setPending _ _ _ _ h := h
  setEnabled _ _ _ _ h := h
  storeIe _ _ h := h
  storeIrq _ _ h := h
  storeBlkcon _ _ h := h
  storeRunmode _ _ h := h
  setMiblk _ _ h := h
  resetController s h := by rw [resetController_eq]; exact h
  writeOsccfg _ _ h := h
  writeLsrst _ h := h
  writeHsrst _ h := h
  writeAdj _ _ h := h

/-- Whatever the responses do, a cycle that no fatal error ended ends with its step 5 (R236). -/
theorem idleOrFaulted_runCycle (r : Responder) (s : State) : IdleOrFaulted (runCycle r s) := by
  unfold runCycle
  split
  · exact fun hf => nomatch hf
  · show IdleOrFaulted (inOrder
      ([beginCycle, clockAdvance, dispatchTicks r, arbitrate, tickAfterAll r, stepCore r] ++ [clearCycleFlags]) s)
    rw [inOrder_concat]
    generalize inOrder _ s = t
    by_cases ht : t.fatal = none
    · rw [unlessFatal_of_none ht]; exact fun _ => rfl
    · rw [unlessFatal_of_faulted ht]; exact fun hf => absurd hf ht

theorem step_keeps_idleOrFaulted {s t : State} (h : IdleOrFaulted s) (hst : step s = .next t) : IdleOrFaulted t :=
  idleOrFaulted_keptByPrimitives.step (fun _ _ h => h) (fun _ _ h => h)
    (fun r _ s _ _ => idleOrFaulted_runCycle r s) h hst

/-- Settles O11: the invariant is `Sound`, which holds inside a command as well, and that no cycle is in progress. -/
theorem everyStepKeepsTheInvariant : Obligations.EveryStepKeepsTheInvariant := by
  intro s t h hst
  rw [inv_iff] at h ⊢
  obtain ⟨hsound, hidle⟩ := h
  exact ⟨step_keeps_sound hsound hst, step_keeps_idleOrFaulted hidle hst⟩

/-! ### Reset -/

/-- The power-on column meets the invariant on every descriptor construction admits (R43, R45). -/
theorem inv_poweredOn {d : Descriptor} (hd : legalDescriptor d = true) : (poweredOn d).Inv :=
  ⟨hd, activeCount_resetLine.symm, ⟨BitVec.zero_and, BitVec.zero_and, BitVec.zero_and⟩,
    countersInRange_of_nominal hd hscnt_zero_inRange rfl rfl rfl, ⟨and_and_not_self _ _, BitVec.zero_and⟩,
    fun _ => ⟨rfl, rfl, rfl, rfl, rfl, rfl, rfl, rfl⟩⟩

/-- Settles O12: reset is power-on with the default descriptor (log 2), which construction admits. -/
theorem resetHoldsTheInvariant : Obligations.ResetHoldsTheInvariant := inv_poweredOn (by decide)

/-- The reset line is the sole active line at power-on (R45). -/
theorem isActive_poweredOn (d : Descriptor) (l : Line) : isActive (poweredOn d) l = decide (l = 0) := by
  show (1#128).getLsbD l.toNat = _
  rw [BitVec.getLsbD_one]
  simp [← BitVec.toNat_inj]

/-- Settles O15: apart from the bitmap and `LSLEN = LS_NOM`, each value stands in `blankState` and `poweredOn`. -/
theorem resetValues : Obligations.ResetValues := by
  have hlslen : State.reset.lslen = 4 := by decide
  exact ⟨isActive_poweredOn _, rfl, rfl, rfl, rfl, rfl, rfl, rfl, rfl, rfl, rfl, rfl, rfl, rfl, rfl, rfl, rfl, rfl,
    rfl, rfl, rfl, rfl, rfl, hlslen, rfl, rfl, rfl, rfl, rfl, rfl, rfl⟩

end Sys2Proof.Machine
end

section
/-! PROOF. What a write rule stores, and what it leaves of the state: the shadow registers first, then every register of
the bus as a read sees it (R64, R162, R164, R210 to R213, R240). -/

namespace Sys2Proof.Machine

open Sys2Proof.Config

/-! ### The shadow registers -/

/-- A state that differs from `s` in the bitmap and its counter alone. -/
def SameButBitmap (s t : State) : Prop := t = { s with act := t.act, cnt := t.cnt }

theorem SameButBitmap.refl (s : State) : SameButBitmap s s := rfl

theorem SameButBitmap.trans {s t u : State} (h : SameButBitmap s t) (h' : SameButBitmap t u) : SameButBitmap s u := by
  unfold SameButBitmap at *
  rw [h']; rw [h]

/-- What both shadow-register writes end with writes no shadow register (R162, R164). -/
theorem sameButBitmap_nonmaskableLine (s : State) (v b : Bool) :
    SameButBitmap s (if v then if b then raiseNonmaskable s else s else resetNonmaskable s) := by
  split
  · split
    · exact activate_frame s 3
    · exact .refl s
  · exact deactivate_frame s 3

theorem setPending_of_same {s : State} {k : Nat} {b : Bool} (hk : k < 22) (h : s.irq.getLsbD k = b) :
    setPending k b s = s := by
  rw [setPending, putBit_of_same s.irq k b hk h]

/-- The line of a shadow bit re-evaluated, when IRQ already holds the bit: the bitmap alone is written (R164). -/
theorem sameButBitmap_reevaluate {s : State} {k : Nat} {b : Bool} (hk : k ≤ lineCount s.desc)
    (h : s.irq.getLsbD k = b) :
    SameButBitmap s ((if b then tryRaise (lineOfBit k) else resetInt (lineOfBit k)) s) := by
  have hlt : k < 22 := by have := lineCount_bounds s.desc; omega
  have hsame : setPending (shadowBit (lineOfBit k)) b s = s := by
    rw [shadowBit_lineOfBit hk]; exact setPending_of_same hlt h
  cases b with
  | false =>
    rw [if_neg Bool.false_ne_true, resetInt, hsame]
    exact deactivate_frame s _
  | true =>
    rw [if_pos rfl]
    rcases tryRaise_cases (lineOfBit k) s with ⟨-, e⟩ | ⟨-, e⟩ <;> rw [e, hsame]
    · exact activate_frame s _
    · exact .refl s

/-- A write of IRQ stores the valid bits, and beside them writes the bitmap and its counter (R164). -/
theorem writeIrq_frame (new : BitVec 24) (s : State) :
    SameButBitmap { s with irq := new.setWidth 22 &&& irqValid s.desc } (writeIrq new s) := by
  refine SameButBitmap.trans (eachShadowBit_keeps (P := SameButBitmap _) (fun k t _ hk ht => ?_) (.refl _))
    (sameButBitmap_nonmaskableLine _ _ _)
  refine ht.trans (sameButBitmap_reevaluate ?_ ?_)
  · rw [ht]; exact hk
  · rw [ht]

/-- The loop that copies a value into the `LEN` flags writes nothing else (R162). -/
theorem copyToEnables_frame (v : Nat → Bool) (s : State) :
    eachShadowBit (fun k => setEnabled (lineOfBit k) (v k)) s
      = { s with len := (eachShadowBit (fun k => setEnabled (lineOfBit k) (v k)) s).len } :=
  eachShadowBit_keeps (P := fun t => t = { s with len := t.len }) (fun _ _ _ _ ht => by rw [ht]; rfl) rfl

/-- A write of IE stores the valid bits, and beside them writes `LEN`, the bitmap and its counter (R162). -/
theorem writeIe_frame (new : BitVec 24) (s : State) :
    SameButBitmap { s with ie := new.setWidth 22 &&& ieValid s.desc, len := (writeIe new s).len } (writeIe new s) := by
  have hline : SameButBitmap _ (writeIe new s) := sameButBitmap_nonmaskableLine _ _ _
  have hlen := congrArg State.len hline
  rw [copyToEnables_frame] at hline
  rw [hlen]
  exact hline

/-- A write of BLKCON with empty responses: the valid bits, then the hooks of the transitions (R240). -/
theorem writeBlkcon_quiet {s : State} (new : Byte) (hf : s.fatal = none) (hr : s.responses = []) :
    writeBlkcon respond new s = { s with
      blkcon := new &&& s.desc.blkValid,
      events := s.events ++ blockHooks s.desc s.blkcon (new &&& s.desc.blkValid) } := by
  have h := eachFrom_hook_quiet (fun n p _ => blockTransition s.blkcon (new &&& s.desc.blkValid) n p)
    (fun _ _ _ _ => rfl) 0 s.desc.periphs (s := { s with blkcon := new &&& s.desc.blkValid }) hf hr
  have hhooks : s.desc.periphs.zipIdx.filterMap
      (fun pn => blockTransition s.blkcon (new &&& s.desc.blkValid) pn.2 pn.1)
        = blockHooks s.desc s.blkcon (new &&& s.desc.blkValid) := by
    simp only [blockTransition_eq, blockHooks]
  rw [← hhooks]
  exact h

/-! ### Every register as a read sees it -/

/-- No write rule writes the descriptor, with the machine's responses (R42). -/
theorem writeRegister_desc (reg : Reg) (new : BitVec 24) (s : State) :
    (writeRegister respond reg new s).desc = s.desc :=
  have hself : AgreeOn (fun d _ => d = s.desc) respond respond := fun t ht => ⟨rfl, (respond_desc t).trans ht⟩
  (agreeOn_writeRegister hself reg new s rfl).2

/-- The bits of a register that a write can leave at 1, in the layout of `registerValue`: the implemented or valid
bits, none for LSRST and HSRST, whose write zeroes what is read there. -/
def writableBits (d : Descriptor) : Reg → BitVec 24
  | .osccfg => osccfgValid.setWidth 24
  | .lsrst | .hsrst => 0
  | .adj => (BitVec.allOnes 16).setWidth 24
  | .ie => (ieValid d).setWidth 24
  | .irq => (irqValid d).setWidth 24
  | .blkcon => d.blkValid.setWidth 24

/-- Masking in a register's own width, or in the width of the bus. -/
theorem setWidth_and_mask {w : Nat} (new : BitVec 24) (m : BitVec w) :
    (new.setWidth w &&& m).setWidth 24 = new &&& m.setWidth 24 := by
  apply BitVec.eq_of_getLsbD_eq
  intro j hj
  by_cases hw : j < w
  · simp [hj, hw]
  · simp [BitVec.getLsbD_of_ge m j (Nat.le_of_not_lt hw)]

theorem ieValid_and_shadowMask (d : Descriptor) : ieValid d &&& shadowMask d = ieValid d := by
  rw [ieValid, BitVec.and_assoc, BitVec.and_self]

theorem irqValid_and_shadowMask (d : Descriptor) : irqValid d &&& shadowMask d = irqValid d := by
  rw [irqValid, BitVec.and_assoc, BitVec.and_self]

/-- WR, as reads see it: the register written holds the writable bits of what was written, and every other register
reads as it did, since each write rule writes one of the fields that reads see. -/
theorem registerValue_writeRegister {s : State} (reg : Reg) (new : BitVec 24) (hf : s.fatal = none)
    (hr : s.responses = []) :
    registerValue (writeRegister respond reg new s)
      = Function.update (registerValue s) reg (new &&& writableBits s.desc reg) := by
  rw [Function.eq_update_iff]
  cases reg with
  | osccfg =>
    refine ⟨?_, fun r hne => by cases r <;> trivial⟩
    show (new.setWidth 8 &&& osccfgValid &&& osccfgValid).setWidth 24 = _
    rw [BitVec.and_assoc, BitVec.and_self, setWidth_and_mask, writableBits]
  | lsrst => exact ⟨BitVec.and_zero.symm, fun r hne => by cases r <;> trivial⟩
  | hsrst => exact ⟨BitVec.and_zero.symm, fun r hne => by cases r <;> trivial⟩
  | adj =>
    refine ⟨?_, fun r hne => by cases r <;> trivial⟩
    have h := setWidth_and_mask new (BitVec.allOnes 16)
    rw [BitVec.and_allOnes] at h
    exact h
  | ie =>
    rw [writeRegister, writeIe_frame]
    refine ⟨?_, fun r hne => by cases r <;> trivial⟩
    show (new.setWidth 22 &&& ieValid s.desc &&& shadowMask s.desc).setWidth 24 = _
    rw [BitVec.and_assoc, ieValid_and_shadowMask, setWidth_and_mask, writableBits]
  | irq =>
    rw [writeRegister, writeIrq_frame]
    refine ⟨?_, fun r hne => by cases r <;> trivial⟩
    show (new.setWidth 22 &&& irqValid s.desc &&& shadowMask s.desc).setWidth 24 = _
    rw [BitVec.and_assoc, irqValid_and_shadowMask, setWidth_and_mask, writableBits]
  | blkcon =>
    rw [writeRegister, writeBlkcon_quiet _ hf hr]
    exact ⟨setWidth_and_mask new s.desc.blkValid, fun r hne => by cases r <;> trivial⟩

end Sys2Proof.Machine
end

section
/-! PROOF. The register bus: what RD answers and what it reads after a WR, by the address (R62 to R64, R72 to R74). -/

namespace Sys2Proof.Machine

open Sys2Proof.Config

/-! ### Addresses -/

/-- The map has one row for each register (R60). -/
theorem registerMap_nodup (d : Descriptor) : ((registerMap d).map (·.1)).Nodup := by
  show [Reg.osccfg, .lsrst, .hsrst, .adj, .ie, .irq, .blkcon].Nodup
  decide

/-- A register has one address at each offset. -/
theorem addressOf_unique {d : Descriptor} {reg : Reg} {k : Nat} {addr other : Addr} (h : AddressOf d reg k addr)
    (h' : AddressOf d reg k other) : addr = other := by
  obtain ⟨base, bytes, hm, -, ha⟩ := h
  obtain ⟨base', bytes', hm', -, ho⟩ := h'
  have hrow := List.inj_on_of_nodup_map (registerMap_nodup d) hm hm' rfl
  simp only [Prod.mk.injEq, true_and] at hrow
  exact BitVec.eq_of_toNat_eq (by rw [ha, ho, hrow.1])

/-- No register is longer than the three bytes of `registerValue`. -/
theorem offset_lt_three {d : Descriptor} {reg : Reg} {k : Nat} {addr : Addr} (h : AddressOf d reg k addr) : k < 3 := by
  have hk := offset_lt h
  have hbytes := shadowBytes_le d
  cases reg <;> dsimp only at hk <;> omega

/-! ### Bytes -/

/-- The byte merged in is the byte there (R64). -/
theorem byteAt_mergeByte_self (old : BitVec 24) {k : Nat} (hk : k < 3) (v : Byte) :
    byteAt (mergeByte old k v) k = v := by
  apply BitVec.eq_of_getLsbD_eq
  intro j hj
  rw [getLsbD_byteAt, getLsbD_mergeByte _ _ _ _ (by omega)]
  simp [hj]

/-- The other bytes are not touched by the merge (R64). -/
theorem byteAt_mergeByte_of_ne (old : BitVec 24) {k j : Nat} (hne : j ≠ k) (hj : j < 3) (v : Byte) :
    byteAt (mergeByte old k v) j = byteAt old j := by
  apply BitVec.eq_of_getLsbD_eq
  intro i hi
  rw [getLsbD_byteAt, getLsbD_byteAt, getLsbD_mergeByte _ _ _ _ (by omega), if_neg (by omega)]

theorem byteAt_and (v m : BitVec 24) (k : Nat) : byteAt (v &&& m) k = byteAt v k &&& byteAt m k := BitVec.extractLsb'_and

/-- A byte of a narrower value, bit by bit. -/
theorem getLsbD_byteAt_setWidth {w : Nat} (v : BitVec w) {k j : Nat} (hk : k < 3) (hj : j < 8) :
    (byteAt (v.setWidth 24) k).getLsbD j = v.getLsbD (8 * k + j) := by
  have h24 : 8 * k + j < 24 := by omega
  rw [getLsbD_byteAt, BitVec.getLsbD_setWidth, decide_eq_true hj, decide_eq_true h24, Bool.true_and, Bool.true_and]

theorem getLsbD_osccfgValid {j : Nat} (hj : j < 8) : osccfgValid.getLsbD j = decide (j < 4) := by
  have h : ∀ i < 8, osccfgValid.getLsbD i = decide (i < 4) := by decide
  exact h j hj

/-! ### Accesses at an address of a register, and at one of none -/

theorem busRead_of_addressOf {s : State} {reg : Reg} {k : Nat} {addr : Addr} (hd : legalDescriptor s.desc = true)
    (ha : AddressOf s.desc reg k addr) : busRead s addr = some (byteAt (registerValue s reg) k) := by
  rw [busRead, locate_of_addressOf hd ha, Option.map_some]

theorem busRead_of_unmapped {s : State} {addr : Addr} (ha : Unmapped s.desc addr) : busRead s addr = none := by
  rw [busRead, locate_of_unmapped ha, Option.map_none]

/-- RD at an address of a register: the byte goes out and no state changes (R63, R73). -/
theorem exec_rd_of_addressOf {s : State} {reg : Reg} {k : Nat} {addr : Addr} (hf : s.fatal = none)
    (hd : legalDescriptor s.desc = true) (ha : AddressOf s.desc reg k addr) :
    exec (.rd addr) s
      = .next { s with events := s.events ++ [.readData addr (byteAt (registerValue s reg) k)] } := by
  rw [exec_of_ready _ hf, perform, busReadOut, busRead_of_addressOf hd ha]
  rfl

/-- RD at an address of no register (R72). -/
theorem exec_rd_of_unmapped {s : State} {addr : Addr} (hf : s.fatal = none) (ha : Unmapped s.desc addr) :
    exec (.rd addr) s = .next { s with events := s.events ++ [.busMiss addr] } := by
  rw [exec_of_ready _ hf, perform, busReadOut, busRead_of_unmapped ha]
  rfl

/-- WR at an address of a register: its write rule, on the value read with the one byte replaced (R64, R74). -/
theorem exec_wr_of_addressOf {s : State} {reg : Reg} {k : Nat} {addr : Addr} (data : Byte) (hf : s.fatal = none)
    (hd : legalDescriptor s.desc = true) (ha : AddressOf s.desc reg k addr) :
    exec (.wr addr data) s = .next (writeRegister respond reg (mergeByte (registerValue s reg) k data) s) := by
  rw [exec_of_ready _ hf, perform, busWrite, locate_of_addressOf hd ha]

/-- WR at an address of no register (R72). -/
theorem exec_wr_of_unmapped {s : State} {addr : Addr} (data : Byte) (hf : s.fatal = none) (ha : Unmapped s.desc addr) :
    exec (.wr addr data) s = .next { s with events := s.events ++ [.busMiss addr] } := by
  rw [exec_of_ready _ hf, perform, busWrite, locate_of_unmapped ha]
  rfl

/-- An address is one of a register's, or of none. -/
theorem addressOf_or_unmapped (d : Descriptor) (addr : Addr) : (∃ reg k, AddressOf d reg k addr) ∨ Unmapped d addr := by
  by_cases h : ∃ reg k, AddressOf d reg k addr
  · exact .inl h
  · exact .inr fun reg k ha => h ⟨reg, k, ha⟩

/-- What any address reads is fixed by the descriptor and the value of the register there. -/
theorem busRead_congr {s t : State} {addr : Addr} (hd : t.desc = s.desc)
    (h : ∀ reg k, AddressOf s.desc reg k addr → byteAt (registerValue t reg) k = byteAt (registerValue s reg) k) :
    busRead t addr = busRead s addr := by
  rw [busRead, busRead, hd]
  exact Option.map_congr fun rk hrk => h rk.1 rk.2 (addressOf_of_locate hrk)

/-- Settles O34: both commands decode the address first. -/
theorem missedAccessChangesNothing : Obligations.MissedAccessChangesNothing := fun _ _ data hf ha =>
  ⟨exec_rd_of_unmapped hf ha, exec_wr_of_unmapped data hf ha⟩

/-- Settles O33: the byte is the addressed one of `registerValue` (`exec_rd_of_addressOf`), which has the bits the
statement lists, register by register. -/
theorem readReturnsTheAddressedByte : Obligations.ReadReturnsTheAddressedByte := by
  intro s addr reg k hf hd ha
  have hk := offset_lt ha
  have hk3 := offset_lt_three ha
  refine ⟨_, exec_rd_of_addressOf hf hd ha, fun j hj => ?_⟩
  cases reg with
  | osccfg =>
    obtain rfl : k = 0 := Nat.lt_one_iff.mp hk
    rw [registerValue, getLsbD_byteAt_setWidth _ hk3 hj, Nat.mul_zero, Nat.zero_add, BitVec.getLsbD_and,
      getLsbD_osccfgValid hj, Bool.and_comm]
  | lsrst | hsrst | blkcon =>
    obtain rfl : k = 0 := Nat.lt_one_iff.mp hk
    rw [registerValue, getLsbD_byteAt_setWidth _ hk3 hj, Nat.mul_zero, Nat.zero_add]
  | adj => exact getLsbD_byteAt_setWidth s.adj hk3 hj
  | ie | irq =>
    rw [registerValue, getLsbD_byteAt_setWidth _ hk3 hj, BitVec.getLsbD_and, getLsbD_shadowMask, Bool.and_comm]

/-! ### Reads after a write -/

/-- The byte merged in, under the byte of the writable bits there. -/
theorem busRead_writeRegister_self {s : State} {reg : Reg} {k : Nat} {addr : Addr} (data : Byte) (hf : s.fatal = none)
    (hr : s.responses = []) (hd : legalDescriptor s.desc = true) (ha : AddressOf s.desc reg k addr) :
    busRead (writeRegister respond reg (mergeByte (registerValue s reg) k data) s) addr
      = some (data &&& byteAt (writableBits s.desc reg) k) := by
  have hdesc := writeRegister_desc reg (mergeByte (registerValue s reg) k data) s
  rw [busRead_of_addressOf (by rwa [hdesc]) (by rwa [hdesc]), registerValue_writeRegister reg _ hf hr,
    Function.update_self, byteAt_and, byteAt_mergeByte_self _ (offset_lt_three ha)]

/-- Settles O60: what is left is which bits of each register are writable. -/
theorem writeIsReadBack : Obligations.WriteIsReadBack := by
  intro s addr data reg k hf hr hd ha
  have hk := offset_lt ha
  have hk3 := offset_lt_three ha
  refine ⟨_, _, exec_wr_of_addressOf data hf hd ha, busRead_writeRegister_self data hf hr hd ha, fun j hj => ?_⟩
  rw [BitVec.getLsbD_and, Bool.and_comm]
  cases reg with
  | osccfg =>
    obtain rfl : k = 0 := Nat.lt_one_iff.mp hk
    rw [writableBits, getLsbD_byteAt_setWidth _ hk3 hj, Nat.mul_zero, Nat.zero_add, getLsbD_osccfgValid hj]
  | lsrst | hsrst => simp [writableBits, getLsbD_byteAt]
  | adj =>
    have h16 : 8 * k + j < 16 := by dsimp only at hk; omega
    rw [writableBits, getLsbD_byteAt_setWidth _ hk3 hj, BitVec.getLsbD_allOnes, decide_eq_true h16, Bool.true_and]
  | ie | irq => rw [writableBits, getLsbD_byteAt_setWidth _ hk3 hj]
  | blkcon =>
    obtain rfl : k = 0 := Nat.lt_one_iff.mp hk
    rw [writableBits, getLsbD_byteAt_setWidth _ hk3 hj, Nat.mul_zero, Nat.zero_add]

/-- Whatever a second mask leaves of a value inside the first is inside the first. -/
theorem and_and_of_and_not {w : Nat} {v m : BitVec w} (h : v &&& ~~~m = 0) (n : BitVec w) :
    v &&& n &&& m = v &&& n := by
  rw [and_not_eq_zero_iff] at h
  apply BitVec.eq_of_getLsbD_eq
  intro j hj
  cases hv : v.getLsbD j with
  | false => simp [hv]
  | true => simp [hv, h j hj hv]

/-- Under the invariant, and with IRQ inside its valid mask, a register holds no bit that a write would clear, but for
the two whose write clears the domain's output. -/
theorem registerValue_and_writableBits {s : State} {reg : Reg} (h : s.Inv) (hirq : s.irq &&& ~~~irqValid s.desc = 0)
    (hls : reg ≠ .lsrst) (hhs : reg ≠ .hsrst) :
    registerValue s reg &&& writableBits s.desc reg = registerValue s reg := by
  obtain ⟨-, -, ⟨hie, -, -⟩, -, ⟨-, hblk⟩, -⟩ := h
  cases reg with
  | lsrst => exact absurd rfl hls
  | hsrst => exact absurd rfl hhs
  | osccfg => rw [registerValue, writableBits, ← BitVec.setWidth_and, BitVec.and_assoc, BitVec.and_self]
  | adj => rw [registerValue, writableBits, ← BitVec.setWidth_and, BitVec.and_allOnes]
  | ie => rw [registerValue, writableBits, ← BitVec.setWidth_and, and_and_of_and_not hie]
  | irq => rw [registerValue, writableBits, ← BitVec.setWidth_and, and_and_of_and_not hirq]
  | blkcon =>
    have hall := and_and_of_and_not hblk (BitVec.allOnes 8)
    rw [BitVec.and_allOnes] at hall
    rw [registerValue, writableBits, ← BitVec.setWidth_and, hall]

/-- A register with two addresses is neither LSRST nor HSRST (R60). -/
theorem not_outputRegister_of_two_bytes {d : Descriptor} {reg : Reg} {k j : Nat} {addr other : Addr}
    (ha : AddressOf d reg k addr) (ho : AddressOf d reg j other) (hne : j ≠ k) : reg ≠ .lsrst ∧ reg ≠ .hsrst := by
  have hk := offset_lt ha
  have hj := offset_lt ho
  constructor <;> rintro rfl <;> dsimp only at hk hj <;> omega

/-- Settles O43: the write of another register does not show here (`registerValue_writeRegister`), and the merge of
another byte of this one puts back what was read, of which the valid mask clears nothing. -/
theorem writeChangesOnlyItsByte : Obligations.WriteChangesOnlyItsByte := by
  intro s t addr other data hinv hr hirq hne hst
  by_cases hf : s.fatal = none
  · rcases addressOf_or_unmapped s.desc addr with ⟨reg, k, ha⟩ | hmiss
    · rw [exec_wr_of_addressOf data hf hinv.1 ha] at hst
      cases hst
      refine busRead_congr (writeRegister_desc _ _ s) fun r j ho => ?_
      rw [registerValue_writeRegister reg _ hf hr]
      by_cases hreg : r = reg
      · subst hreg
        have hjk : j ≠ k := fun h => hne (addressOf_unique (h ▸ ho) ha)
        obtain ⟨hls, hhs⟩ := not_outputRegister_of_two_bytes ha ho hjk
        rw [Function.update_self, byteAt_and, byteAt_mergeByte_of_ne _ hjk (offset_lt_three ho), ← byteAt_and,
          registerValue_and_writableBits hinv hirq hls hhs]
      · rw [Function.update_of_ne hreg]
    · rw [exec_wr_of_unmapped data hf hmiss] at hst
      cases hst
      rfl
  · rw [exec_of_faulted _ hf] at hst
    cases hst
    rfl

end Sys2Proof.Machine
end

section
/-! PROOF. The encoding statements: the round trip (R82, R84), the rows of the opcode map as the decoder's selectors
(R84), a step by the presented word (R80, R86), and the numeric codes (R93). -/

namespace Sys2Proof

/-- The decoder reads the fields a command packs, format by format (R82, R83). -/
theorem decode_encode (i : Instr) : decode (encode i) = .ok i := by
  cases i with
  -- N
  | cycle | rst | brk | accept | raiseRst | raiseBrk | raiseEmu | raiseNmi | clrNmi | reqNmi => rfl
  -- L
  | raiseMi l | raiseSw l | clrMi l | lineTry l | lineClr l =>
    rw [encode, decode_commandWord]
    exact inFormat_ok.mpr ⟨by simp, by rw [indexOperand_indexField]⟩
  -- LB
  | lineEn l b =>
    rw [encode, decode_commandWord]
    exact inFormat_ok.mpr ⟨by simp, by rw [indexOperand_indexField, flagOperand_flagField]⟩
  -- W, R
  | wr | rd =>
    rw [encode, decode_commandWord]
    exact inFormat_ok.mpr ⟨rfl, rfl⟩
  -- M
  | runmode m =>
    rw [encode, decode_commandWord]
    exact inFormat_ok.mpr ⟨by simp, by rw [modeOperand_modeField]⟩
  -- F
  | miblk b =>
    rw [encode, decode_commandWord]
    exact inFormat_ok.mpr ⟨by simp, by rw [flagOperand_flagField]⟩

/-- Settles O1: the formats pack each operand in the field the decoder reads it from. -/
theorem decodeOfEncode : Obligations.DecodeOfEncode := decode_encode

/-- Settles O2: the must-be-zero fields leave no second word (`encode_of_decodeFields`), and a word is its fields. -/
theorem encodeOfDecode : Obligations.EncodeOfDecode := fun _ _ => encode_of_decode

/-! ### The rows of the opcode map -/

/-- Masking a word masks its fields: what it means to select a row, said of `OP`, `A` and `D` (R81, R84). -/
theorem fields_of_selects {w : CommandWord} {op d : BitVec 8} {a : BitVec 16}
    (h : w &&& commandWord 0xFF#8 a d = commandWord op 0 0) :
    opField w = op ∧ aField w &&& a = 0 ∧ dField w &&& d = 0 := by
  rw [← commandWord_fields w, commandWord_and] at h
  have hop := congrArg opField h
  have ha := congrArg aField h
  have hd := congrArg dField h
  simp only [opField_commandWord, aField_commandWord, dField_commandWord] at hop ha hd
  exact ⟨BitVec.and_allOnes.symm.trans hop, ha, hd⟩

/-- The mask of a field that must be zero as a whole keeps all of it. -/
theorem beq_zero_of_and {n : Nat} {v : BitVec n} (h : v &&& BitVec.allOnes n = 0) : (v == 0) = true :=
  beq_of_eq (BitVec.and_allOnes.symm.trans h)

/-- `A[15:7]` is what the mask of the formats L and LB keeps of `A`. -/
theorem indexOnly_of_and {a : BitVec 16} (h : a &&& 0xFF80#16 = 0) : indexOnly a = true := by
  have hbits : (a &&& 0xFF80#16).extractLsb' 7 9 = a.extractLsb' 7 9 := by
    rw [BitVec.extractLsb'_and]
    exact BitVec.and_allOnes
  rw [indexOnly, ← hbits, h]
  rfl

theorem flagOnly_of_and : ∀ {d : BitVec 8}, d &&& 0xFE#8 = 0 → flagOnly d = true := by decide

theorem modeOnly_of_and : ∀ {d : BitVec 8}, d &&& 0xFC#8 = 0 → modeOnly d = true := by decide

/-- `A` and `D` meet the format's must-be-zero demand `ok` whenever the row's mask finds them zero. -/
def MaskGrants (a : BitVec 16) (d : BitVec 8) (ok : BitVec 16 → BitVec 8 → Bool) : Prop :=
  ∀ a' d', a' &&& a = 0 → d' &&& d = 0 → ok a' d' = true

theorem maskGrants_plain : MaskGrants 0xFFFF#16 0xFF#8 fun a d => a == 0 && d == 0 :=
  fun _ _ ha hd => Bool.and_eq_true_iff.mpr ⟨beq_zero_of_and ha, beq_zero_of_and hd⟩

theorem maskGrants_index : MaskGrants 0xFF80#16 0xFF#8 fun a d => indexOnly a && d == 0 :=
  fun _ _ ha hd => Bool.and_eq_true_iff.mpr ⟨indexOnly_of_and ha, beq_zero_of_and hd⟩

theorem maskGrants_indexFlag : MaskGrants 0xFF80#16 0xFE#8 fun a d => indexOnly a && flagOnly d :=
  fun _ _ ha hd => Bool.and_eq_true_iff.mpr ⟨indexOnly_of_and ha, flagOnly_of_and hd⟩

theorem maskGrants_write : MaskGrants 0 0 fun _ _ => true := fun _ _ _ _ => rfl

theorem maskGrants_read : MaskGrants 0 0xFF#8 fun _ d => d == 0 := fun _ _ _ hd => beq_zero_of_and hd

theorem maskGrants_mode : MaskGrants 0xFFFF#16 0xFC#8 fun a d => a == 0 && modeOnly d :=
  fun _ _ ha hd => Bool.and_eq_true_iff.mpr ⟨beq_zero_of_and ha, modeOnly_of_and hd⟩

theorem maskGrants_flag : MaskGrants 0xFFFF#16 0xFE#8 fun a d => a == 0 && flagOnly d :=
  fun _ _ ha hd => Bool.and_eq_true_iff.mpr ⟨beq_zero_of_and ha, flagOnly_of_and hd⟩

/-- A word that selects the row decodes to a command with the row's mnemonic. -/
def RowDecodes (r : OpcodeRow) : Prop :=
  ∀ w : CommandWord, w &&& r.maskBits = r.matchBits → ∃ i, decode w = .ok i ∧ i.mnemonic = r.mnemonic

/-- A row's words decode if its mask grants what its command's format demands (R83, R84). -/
theorem rowDecodes_of_format {a : BitVec 16} {d : BitVec 8} {ok : BitVec 16 → BitVec 8 → Bool}
    (hmask : MaskGrants a d ok) (op : BitVec 8) (i : BitVec 16 → BitVec 8 → Instr) {name : String}
    (hdec : ∀ a' d', decodeFields op a' d' = inFormat op (ok a' d') (i a' d'))
    (hname : ∀ a' d', (i a' d').mnemonic = name) :
    RowDecodes ⟨name, commandWord op 0 0, commandWord 0xFF#8 a d⟩ := fun w h => by
  obtain ⟨hop, ha, hd⟩ := fields_of_selects h
  refine ⟨i (aField w) (dField w), ?_, hname _ _⟩
  rw [decode, hop, hdec]
  exact inFormat_ok.mpr ⟨hmask _ _ ha hd, rfl⟩

theorem rowDecodes_plain (op : BitVec 8) (i : Instr)
    (hdec : ∀ a d, decodeFields op a d = inFormat op (a == 0 && d == 0) i) :
    RowDecodes ⟨i.mnemonic, commandWord op 0 0, 0xFFFFFFFF#32⟩ :=
  rowDecodes_of_format maskGrants_plain op (fun _ _ => i) hdec fun _ _ => rfl

theorem rowDecodes_index (op : BitVec 8) (f : Line → Instr) {name : String}
    (hdec : ∀ a d, decodeFields op a d = inFormat op (indexOnly a && d == 0) (f (indexOperand a)))
    (hname : ∀ l, (f l).mnemonic = name) : RowDecodes ⟨name, commandWord op 0 0, 0xFFFF80FF#32⟩ :=
  rowDecodes_of_format maskGrants_index op (fun a _ => f (indexOperand a)) hdec fun _ _ => hname _

/-- Every row, in the order of R84. -/
theorem rowDecodes : ∀ r ∈ opcodeMap, RowDecodes r := by
  simp only [opcodeMap, List.forall_mem_cons]
  exact
    ⟨rowDecodes_plain 0x01#8 .cycle fun _ _ => rfl,
      rowDecodes_plain 0x02#8 .rst fun _ _ => rfl,
      rowDecodes_plain 0x03#8 .brk fun _ _ => rfl,
      rowDecodes_plain 0x04#8 .accept fun _ _ => rfl,
      rowDecodes_plain 0x10#8 .raiseRst fun _ _ => rfl,
      rowDecodes_plain 0x11#8 .raiseBrk fun _ _ => rfl,
      rowDecodes_plain 0x12#8 .raiseEmu fun _ _ => rfl,
      rowDecodes_plain 0x13#8 .raiseNmi fun _ _ => rfl,
      rowDecodes_index 0x14#8 .raiseMi (fun _ _ => rfl) fun _ => rfl,
      rowDecodes_index 0x15#8 .raiseSw (fun _ _ => rfl) fun _ => rfl,
      rowDecodes_plain 0x18#8 .clrNmi fun _ _ => rfl,
      rowDecodes_index 0x19#8 .clrMi (fun _ _ => rfl) fun _ => rfl,
      rowDecodes_plain 0x1A#8 .reqNmi fun _ _ => rfl,
      rowDecodes_of_format maskGrants_indexFlag 0x20#8 (fun a d => .lineEn (indexOperand a) (flagOperand d))
        (fun _ _ => rfl) fun _ _ => rfl,
      rowDecodes_index 0x21#8 .lineTry (fun _ _ => rfl) fun _ => rfl,
      rowDecodes_index 0x22#8 .lineClr (fun _ _ => rfl) fun _ => rfl,
      rowDecodes_of_format maskGrants_write 0x30#8 (fun a d => .wr a d) (fun _ _ => rfl) fun _ _ => rfl,
      rowDecodes_of_format maskGrants_read 0x31#8 (fun a _ => .rd a) (fun _ _ => rfl) fun _ _ => rfl,
      rowDecodes_of_format maskGrants_mode 0x40#8 (fun _ d => .runmode (modeOperand d)) (fun _ _ => rfl) fun _ _ => rfl,
      rowDecodes_of_format maskGrants_flag 0x41#8 (fun _ d => .miblk (flagOperand d)) (fun _ _ => rfl) fun _ _ => rfl,
      List.forall_mem_nil _⟩

/-- No mnemonic names two rows. -/
theorem row_unique : ∀ r ∈ opcodeMap, ∀ r' ∈ opcodeMap, r.mnemonic = r'.mnemonic → r = r' := by decide

/-- Settles O3: each row's mask finds zero just what its command's format demands to be zero (`rowDecodes`,
`selects_of_decode`); the rows are disjoint since a word decodes to one command. -/
theorem wordSelectsItsRow : Obligations.WordSelectsItsRow := by
  refine ⟨fun w r hr => ⟨rowDecodes r hr w, ?_⟩, fun w r hr r' hr' h h' => ?_⟩
  · rintro ⟨i, hi, hname⟩
    obtain ⟨r', hr', hname', hsel⟩ := selects_of_decode hi
    rwa [row_unique r hr r' hr' (hname.symm.trans hname'.symm)]
  · obtain ⟨i, hi, hname⟩ := rowDecodes r hr w h
    obtain ⟨i', hi', hname'⟩ := rowDecodes r' hr' w h'
    cases hi.symm.trans hi'
    exact row_unique r hr r' hr' (hname.symm.trans hname')

/-- Settles O4: each word is `encode` of its command, by the tables. -/
theorem specWordsDecode : Obligations.SpecWordsDecode :=
  ⟨decode_encode .cycle, decode_encode (.raiseMi 4), decode_encode (.raiseSw 127), decode_encode (.lineEn 5 true),
    decode_encode (.lineTry 5), decode_encode (.wr 0xF010 0x04), decode_encode (.rd 0xF014),
    decode_encode (.runmode 1), decode_encode (.miblk true)⟩

end Sys2Proof

namespace Sys2Proof.Machine

/-! ### A step by the presented word -/

/-- Settles O5: a step takes the word before it looks at what it says. -/
theorem stepRunsTheDecodedCommand : Obligations.StepRunsTheDecodedCommand :=
  ⟨fun _ _ _ _ => step_of_command, fun _ => step_of_empty⟩

/-- Settles O6: a word that selects no row decodes to no command (`decode_error_of_noRow`). -/
theorem illegalWordRaisesFatal4 : Obligations.IllegalWordRaisesFatal4 := by
  intro s w rest hf hport hrow
  obtain ⟨e, he⟩ := decode_error_of_noRow hrow
  rw [step_of_illegal hport he, execIllegal, command]
  exact congrArg Host.Outcome.next (unlessFatal_of_none hf)

/-! ### Numeric codes -/

theorem fatalCode_ne_zero (c : FatalCode) : fatalCode c ≠ 0 := by cases c <;> decide

theorem fatalValue_of_none {s : State} (h : s.fatal = none) : fatalValue s = 0 := by rw [fatalValue, h]

theorem fatalValue_of_some {s : State} {c : FatalCode} (h : s.fatal = some c) : fatalValue s = fatalCode c := by
  rw [fatalValue, h]

theorem fatalValue_eq_zero_iff (s : State) : fatalValue s = 0 ↔ s.fatal = none := by
  refine ⟨fun h => ?_, fatalValue_of_none⟩
  cases hf : s.fatal with
  | none => rfl
  | some c => exact absurd ((fatalValue_of_some hf).symm.trans h) (fatalCode_ne_zero c)

theorem runmodeCode_modeOf : ∀ m : BitVec 2, m ≠ 3 → (modeOf m).map runmodeCode = some m := by decide

/-- The order of the tests in `exceptionLevel` does not matter: it is the table of R147. -/
theorem exceptionLevel_eq_levelOf : ∀ l : Line, exceptionLevel l = levelOf l := by decide

/-- Settles O57: the codes are the definitions' own, and none of a fatal error is 0. -/
theorem numericCodes : Obligations.NumericCodes :=
  ⟨rfl, rfl, rfl, rfl, rfl, fatalValue_eq_zero_iff, fun _ _ => fatalValue_of_some, rfl, rfl, rfl, rfl,
    runmodeCode_modeOf, rfl, exceptionLevel_eq_levelOf⟩

end Sys2Proof.Machine
end

section
/-! PROOF. The controller's own commands: reset and break (R121, R130), and the raises, clears and the request with
their range checks (R111 to R120). -/

namespace Sys2Proof.Machine

open Sys2Proof.Config

/-! ### Reset and break -/

/-- RST is its hooks, then the controller part unless a fatal error stands after them (R130, R260). -/
theorem resetBlock_of_ready (r : Responder) {s : State} (hf : s.fatal = none) :
    resetBlock r s
      = unlessFatal resetController (eachPeripheral (fun n _ => hook r (.resetPeriph n)) s) := by
  rw [resetBlock, inOrder_cons, unlessFatal_of_none hf]; rfl

/-- When no fatal error stands after RST, the controller part was its last write, whatever the hooks did (R130). -/
theorem resetBlock_of_completed {r : Responder} {s : State} (hf : s.fatal = none)
    (h : (resetBlock r s).fatal = none) :
    ∃ u, resetBlock r s = resetController u := by
  rw [resetBlock_of_ready r hf] at h ⊢
  generalize eachPeripheral (fun n _ => hook r (.resetPeriph n)) s = u at h ⊢
  by_cases hu : u.fatal = none
  · exact ⟨u, unlessFatal_of_none hu⟩
  · rw [unlessFatal_of_faulted hu] at h
    exact absurd h hu

/-- A bitmap that is 1 has the reset line active and no other. -/
theorem isActive_of_act_eq_one {s : State} (h : s.act = 1) (l : Line) : isActive s l = decide (l = 0) :=
  (isActive_congr (t := poweredOn s.desc) h l).trans (isActive_poweredOn s.desc l)

/-- Settles O17: the hooks append their events and write nothing else, so what changes is the controller part. -/
theorem resetWritesTheControllerOnly : Obligations.ResetWritesTheControllerOnly := by
  intro s hf hr
  rw [exec_of_ready .rst hf, perform, resetBlock_of_ready respond hf, eachPeripheral_hook_quiet .resetPeriph hf hr,
    unlessFatal_of_none (by exact hf), resetController_eq]

/-- Settles O16: a reset that completed ended with the controller part (`resetBlock_of_completed`). -/
theorem resetLeavesOnlyTheResetLine : Obligations.ResetLeavesOnlyTheResetLine := by
  intro s hf
  refine ⟨resetBlock respond s, exec_of_ready .rst hf, fun hdone => ?_⟩
  obtain ⟨u, hu⟩ := resetBlock_of_completed hf hdone
  rw [hu, resetController_eq]
  exact ⟨isActive_of_act_eq_one rfl, rfl, rfl, rfl, rfl⟩

/-- Settles O18: the level that BRK tests is the one it has just sampled. -/
theorem breakByExceptionLevel : Obligations.BreakByExceptionLevel := by
  intro s hf
  have hfs : (sampled s).fatal = none := hf
  rw [exec_of_ready .brk hf, exec_of_ready .rst hfs, perform, perform, breakBlock, samplePorts_eq]
  refine ⟨fun habove => congrArg _ (if_pos habove), fun hatMost => ?_⟩
  exact ⟨raiseBreak (sampled s), congrArg _ (if_neg (Nat.not_lt.mpr hatMost)), lineRaised_activate 1 (sampled s)⟩

/-! ### Raises and clears by the range of their operand -/

theorem isMaskable_eq_false {l : Line} (h : l.toNat < 4 ∨ 63 < l.toNat) : isMaskable l = false := by
  rw [← Bool.not_eq_true, isMaskable_iff]; omega

theorem isSoftware_of_le {l : Line} (h : 64 ≤ l.toNat) : isSoftware l = true := decide_eq_true h

theorem isSoftware_of_lt {l : Line} (h : l.toNat < 64) : isSoftware l = false := decide_eq_false (Nat.not_le.mpr h)

/-- A command that checks its operand, when the check passes. -/
theorem exec_of_checkPassed {i : Instr} {ok : Bool} {c : FatalCode} {f : State → State} {s : State}
    (hf : s.fatal = none) (hi : perform respond i s = checked ok c f s) (hok : ok = true) :
    exec i s = .next (f s) := by
  rw [exec_of_ready i hf, hi, checked_of_true hok]

/-- A command that checks its operand, when the check fails (R260). -/
theorem exec_of_checkFailed {i : Instr} {ok : Bool} {c : FatalCode} {f : State → State} {s : State}
    (hf : s.fatal = none) (hi : perform respond i s = checked ok c f s) (hok : ok = false) :
    exec i s = .next { s with fatal := some c } := by
  rw [exec_of_ready i hf, hi, checked_of_false hok]

/-- Settles O19: each of the four is `activate` of its line. -/
theorem raisesSetTheirSlot : Obligations.RaisesSetTheirSlot := fun s hf =>
  ⟨⟨raiseReset s, exec_of_ready .raiseRst hf, lineRaised_activate 0 s⟩,
    ⟨raiseBreak s, exec_of_ready .raiseBrk hf, lineRaised_activate 1 s⟩,
    ⟨raiseEmulatorDebug s, exec_of_ready .raiseEmu hf, lineRaised_activate 2 s⟩,
    ⟨raiseNonmaskable s, exec_of_ready .raiseNmi hf, lineRaised_activate 3 s⟩⟩

/-- Settles O20: RAISE.MI is `activate` behind the check for 4..63. -/
theorem raiseMaskableByRange : Obligations.RaiseMaskableByRange := fun s l hf =>
  ⟨fun hin => ⟨activate l s, exec_of_checkPassed hf rfl ((isMaskable_iff l).mpr hin), lineRaised_activate l s⟩,
    fun hout => exec_of_checkFailed hf rfl (isMaskable_eq_false hout)⟩

/-- Settles O21: RAISE.SW is `activate` behind the check for 64 and above. -/
theorem raiseSoftwareByRange : Obligations.RaiseSoftwareByRange := fun s l hf =>
  ⟨fun hin => ⟨activate l s, exec_of_checkPassed hf rfl (isSoftware_of_le hin), lineRaised_activate l s⟩,
    fun hout => exec_of_checkFailed hf rfl (isSoftware_of_lt hout)⟩

/-- Settles O22: CLR.NMI is `deactivate` of line 3, which writes no shadow register. -/
theorem clearNonmaskableClearsItsSlot : Obligations.ClearNonmaskableClearsItsSlot := fun s hf =>
  ⟨resetNonmaskable s, exec_of_ready .clrNmi hf, lineLowered_deactivate 3 s⟩

/-- Settles O23: CLR.MI is `deactivate` behind the check for 4..63. -/
theorem clearMaskableByRange : Obligations.ClearMaskableByRange := fun s l hf =>
  ⟨fun hin => ⟨deactivate l s, exec_of_checkPassed hf rfl ((isMaskable_iff l).mpr hin), lineLowered_deactivate l s⟩,
    fun hout => exec_of_checkFailed hf rfl (isMaskable_eq_false hout)⟩

/-! ### Raising twice -/

theorem activate_of_active {l : Line} {s : State} (h : isActive s l = true) : activate l s = s := if_pos h

/-- A line that was activated is active, so activating it again does nothing (R119). -/
theorem activate_activate (l : Line) (s : State) : activate l (activate l s) = activate l s :=
  activate_of_active (by simp [isActive_activate])

/-- A command that activates one line, perhaps behind an operand check, does nothing the second time: either the line
is active by then, or the check failed and a fatal error stands. -/
theorem exec_twice_of_checkedActivate {i : Instr} {ok : Bool} {c : FatalCode} {l : Line} {s t : State}
    (hi : ∀ s, perform respond i s = checked ok c (activate l) s) (h : exec i s = .next t) : exec i t = .next t := by
  by_cases hf : s.fatal = none
  · cases ok with
    | true =>
      rw [exec_of_checkPassed hf (hi s) rfl] at h
      cases h
      rw [exec_of_checkPassed ((activate_fatal s l).trans hf) (hi _) rfl, activate_activate]
    | false =>
      rw [exec_of_checkFailed hf (hi s) rfl] at h
      cases h
      exact exec_of_faulted i (Option.some_ne_none c)
  · rw [exec_of_faulted i hf] at h
    cases h
    exact exec_of_faulted i hf

/-- Every raise is `activate` of one line, for RAISE.MI and RAISE.SW behind an operand check (R111 to R116). -/
theorem perform_raise {i : Instr}
    (h : i = .raiseRst ∨ i = .raiseBrk ∨ i = .raiseEmu ∨ i = .raiseNmi
      ∨ (∃ l, i = .raiseMi l) ∨ (∃ l, i = .raiseSw l)) :
    ∃ ok c l, ∀ s, perform respond i s = checked ok c (activate l) s := by
  rcases h with rfl | rfl | rfl | rfl | ⟨l, rfl⟩ | ⟨l, rfl⟩
  · exact ⟨true, .badMaskableIndex, 0, fun _ => rfl⟩
  · exact ⟨true, .badMaskableIndex, 1, fun _ => rfl⟩
  · exact ⟨true, .badMaskableIndex, 2, fun _ => rfl⟩
  · exact ⟨true, .badMaskableIndex, 3, fun _ => rfl⟩
  · exact ⟨isMaskable l, .badMaskableIndex, l, fun _ => rfl⟩
  · exact ⟨isSoftware l, .badSoftwareIndex, l, fun _ => rfl⟩

/-- Settles O24: the six raises have one shape (`perform_raise`), for which the second time does nothing. -/
theorem raiseTwiceIsRaiseOnce : Obligations.RaiseTwiceIsRaiseOnce := by
  intro s t i hraise h
  obtain ⟨ok, c, l, hi⟩ := perform_raise hraise
  exact exec_twice_of_checkedActivate hi h

/-! ### The request -/

/-- REQ.NMI writes of IRQ what setting bit 0 writes, whether or not it raises the line (R120). -/
theorem requestNonmaskable_irq (s : State) : (requestNonmaskable s).irq = (setPending 0 true s).irq := by
  rcases requestNonmaskable_cases s with ⟨-, h⟩ | ⟨-, h⟩ <;> rw [h]
  exact activate_irq _ 3

/-- Settles O25: the pending bit is set in both cases of `requestNonmaskable_cases`, which `IE[0]` tells apart. -/
theorem requestNonmaskableByMask : Obligations.RequestNonmaskableByMask := by
  intro s hf
  have hpend : { s with irq := (requestNonmaskable s).irq } = setPending 0 true s := by
    rw [requestNonmaskable_irq]; rfl
  refine ⟨requestNonmaskable s, exec_of_ready .reqNmi hf, fun k _ => ?_, fun hie => ?_, fun hie => ?_⟩
  · rw [requestNonmaskable_irq, getLsbD_setPending s 0 k true (by decide)]
    by_cases hk : k = 0 <;> simp [hk]
  · rw [hpend]
    rcases requestNonmaskable_cases s with ⟨-, h⟩ | ⟨hie', -⟩
    · rw [h]; exact lineRaised_activate 3 _
    · rw [hie] at hie'; cases hie'
  · rw [hpend]
    rcases requestNonmaskable_cases s with ⟨hie', -⟩ | ⟨-, h⟩
    · rw [hie] at hie'; cases hie'
    · exact h

end Sys2Proof.Machine
end

section
/-! PROOF. The arbiter: its fall-through search finds the line that is first in the order of R141, and what delivery
writes (R140 to R152). -/

namespace Sys2Proof.Machine

/-! ### The search and the order -/

/-- All lines in the order of R141. -/
def priorityOrder : List Line := 0 :: softwareLines ++ [2, 1, 3] ++ maskableLines

/-- The lines of a range of indices, as `softwareLines` and `maskableLines` list them. -/
theorem mem_linesOfRange {l : Line} {start count : Nat} (hend : start + count ≤ 128) :
    l ∈ (List.range' start count).map (BitVec.ofNat 7) ↔ start ≤ l.toNat ∧ l.toNat < start + count := by
  simp only [List.mem_map, List.mem_range'_1]
  constructor
  · rintro ⟨i, hi, rfl⟩
    rwa [BitVec.toNat_ofNat, Nat.mod_eq_of_lt (by omega)]
  · exact fun hl => ⟨l.toNat, hl, BitVec.eq_of_toNat_eq (by simp)⟩

theorem mem_softwareLines (l : Line) : l ∈ softwareLines ↔ 64 ≤ l.toNat :=
  (mem_linesOfRange (by decide)).trans (and_iff_left l.isLt)

theorem mem_maskableLines (l : Line) : l ∈ maskableLines ↔ 4 ≤ l.toNat ∧ l.toNat ≤ 63 :=
  (mem_linesOfRange (by decide)).trans (and_congr_right fun _ => Nat.lt_succ_iff)

theorem mem_priorityOrder (l : Line) : l ∈ priorityOrder := by
  simp only [priorityOrder, List.mem_append, List.mem_cons, mem_softwareLines, mem_maskableLines, List.not_mem_nil]
  bv_omega

/-- The list has the lines in ascending rank. -/
theorem priorityRank_priorityOrder : priorityOrder.map priorityRank = List.range 128 := by decide

/-- A line before another in the list goes before it in rank. -/
theorem priorityOrder_ascending : priorityOrder.Pairwise (fun l m => priorityRank l < priorityRank m) := by
  rw [← List.pairwise_map (R := (· < ·)), priorityRank_priorityOrder]
  exact List.pairwise_lt_range

/-- Lines 0 to 2 and the software lines are deliverable whenever they are active (R142). -/
theorem deliverable_unmasked {l : Line} (s : State) (h : l.toNat < 3 ∨ 64 ≤ l.toNat) :
    decide (Deliverable s l) = isActive s l := by
  have h3 : l.toNat ≠ 3 := by omega
  have hm : ¬ (4 ≤ l.toNat ∧ l.toNat ≤ 63) := by omega
  simp [Deliverable, h3, hm]

/-- The non-maskable line asks for a level of at most 2 (R143). -/
theorem deliverable_nonmaskable (s : State) :
    decide (Deliverable s 3) = (isActive s 3 && nonmaskableDeliverable s) := by
  simp [Deliverable, nonmaskableDeliverable]

/-- The maskable lines share one condition on the core and the block (R144). -/
theorem deliverable_maskable {l : Line} (s : State) (h : 4 ≤ l.toNat ∧ l.toNat ≤ 63) :
    decide (Deliverable s l) = (isActive s l && maskableDeliverable s) := by
  have h3 : l.toNat ≠ 3 := by omega
  simp [Deliverable, maskableDeliverable, h3, h, Bool.and_assoc]

theorem find?_deliverable_softwareLines (s : State) :
    softwareLines.find? (fun l => decide (Deliverable s l)) = lowestActive s softwareLines :=
  List.find?_congr fun l hl => deliverable_unmasked s (.inr ((mem_softwareLines l).mp hl))

theorem find?_deliverable_maskableLines (s : State) :
    maskableLines.find? (fun l => decide (Deliverable s l))
      = if maskableDeliverable s then lowestActive s maskableLines else none := by
  rw [List.find?_congr fun l hl => deliverable_maskable s ((mem_maskableLines l).mp hl)]
  cases maskableDeliverable s <;> simp [lowestActive]

/-- The fall-through search of R140 is the search for a deliverable line in the order of R141. -/
theorem selectLine_eq_find? (s : State) :
    selectLine s = priorityOrder.find? (fun l => decide (Deliverable s l)) := by
  have h0 := deliverable_unmasked (l := 0) s (by decide)
  have h1 := deliverable_unmasked (l := 1) s (by decide)
  have h2 := deliverable_unmasked (l := 2) s (by decide)
  have h3 := deliverable_nonmaskable s
  simp only [selectLine, priorityOrder, List.find?_append, List.find?_cons, List.find?_nil,
    find?_deliverable_softwareLines, find?_deliverable_maskableLines, h0, h1, h2, h3]
  cases isActive s 0
  · cases lowestActive s softwareLines
    · cases isActive s 2
      · cases isActive s 1
        · cases isActive s 3 && nonmaskableDeliverable s <;> rfl
        · rfl
      · rfl
    · rfl
  · rfl

theorem selectLine_of_none {s : State} (h : ∀ l, ¬ Deliverable s l) : selectLine s = none := by
  rw [selectLine_eq_find?, List.find?_eq_none]
  exact fun l _ => mt of_decide_eq_true (h l)

/-- The line that is first in the order is selected: every line before it in the list has a smaller rank. -/
theorem selectLine_of_firstDeliverable {s : State} {l : Line} (h : FirstDeliverable s l) : selectLine s = some l := by
  obtain ⟨hl, hfirst⟩ := h
  obtain ⟨before, after, hsplit⟩ := List.append_of_mem (mem_priorityOrder l)
  have hasc := priorityOrder_ascending
  rw [hsplit, List.pairwise_append] at hasc
  obtain ⟨-, -, hlt⟩ := hasc
  rw [selectLine_eq_find?, List.find?_eq_some_iff_append]
  refine ⟨decide_eq_true hl, before, after, hsplit, fun m hm => ?_⟩
  have hrank : priorityRank m < priorityRank l := hlt m hm l List.mem_cons_self
  have hnot : ¬ Deliverable s m := fun hd => Nat.not_le.mpr hrank (hfirst m hd)
  rw [decide_eq_false hnot, Bool.not_false]

/-! ### Delivery -/

/-- The diagnostic is an event and nothing else (R148). -/
theorem diagnoseNested_eq (l : Line) (s : State) :
    diagnoseNested l s = { s with
      events := s.events
        ++ (if 64 ≤ l.toNat ∧ 1 < s.coreports.elevel.toNat then [.diag .swiNested l] else []) } := by
  simp only [diagnoseNested, isSoftware, Bool.and_eq_true, decide_eq_true_eq]
  split
  · rfl
  · rw [List.append_nil]

theorem isActive_diagnoseNested (l m : Line) (s : State) : isActive (diagnoseNested l s) m = isActive s m := by
  rw [diagnoseNested_eq]; rfl

/-- Delivery deactivates its line and no other, active or not (R145). -/
theorem isActive_deliver (l m : Line) (s : State) :
    isActive (deliver l s) m = (!decide (m = l) && isActive s m) := by
  have hslots : (clearPendingOf l s).act = s.act := by rw [clearPendingOf_frame]
  calc isActive (deliver l s) m
      = isActive (deactivate l (clearPendingOf l s)) m := rfl
    _ = (!decide (m = l) && isActive (clearPendingOf l s) m) := isActive_deactivate _ l m
    _ = (!decide (m = l) && isActive s m) := by rw [isActive_congr hslots]

/-- Of the shadow pending bits delivery clears what `clearPendingOf` clears (R145). -/
theorem deliver_irq (l : Line) (s : State) : (deliver l s).irq = (clearPendingOf l s).irq :=
  deactivate_irq (clearPendingOf l s) l

/-! ### ACCEPT -/

theorem acceptInterrupt_of_cnt_zero {s : State} (h : s.cnt = 0) : acceptInterrupt s = s := if_pos h

/-- Nothing selected at the sampled ports: ACCEPT is the sampling (R149, R151). -/
theorem acceptInterrupt_of_deferred {s : State} (hc : s.cnt ≠ 0) (h : selectLine (sampled s) = none) :
    acceptInterrupt s = sampled s := by
  simp only [acceptInterrupt, if_neg hc, samplePorts_eq, h]

/-- A line selected at the sampled ports: ACCEPT delivers it, the diagnostic first (R140, R148). -/
theorem acceptInterrupt_of_selected {s : State} {l : Line} (hc : s.cnt ≠ 0) (h : selectLine (sampled s) = some l) :
    acceptInterrupt s = deliver l (diagnoseNested l (sampled s)) := by
  simp only [acceptInterrupt, if_neg hc, samplePorts_eq, h]

/-- Settles O28: CNT 0 ends the arbiter before it samples the ports. -/
theorem acceptWithNothingActive : Obligations.AcceptWithNothingActive := fun _ hf hc =>
  (exec_of_ready .accept hf).trans (congrArg _ (acceptInterrupt_of_cnt_zero hc))

/-- Settles O27: with no line deliverable the search finds none. -/
theorem acceptDefersOtherwise : Obligations.AcceptDefersOtherwise := fun _ hf hc hnone =>
  (exec_of_ready .accept hf).trans (congrArg _ (acceptInterrupt_of_deferred hc (selectLine_of_none hnone)))

/-- Settles O26: the search finds the first deliverable line (`selectLine_of_firstDeliverable`), and delivery of an
active line is `deliver_eq`. -/
theorem acceptDeliversTheFirstDeliverable : Obligations.AcceptDeliversTheFirstDeliverable := by
  intro s l hf hc hfirst
  have hselect := selectLine_of_firstDeliverable hfirst
  have hactive : isActive (diagnoseNested l (sampled s)) l = true := by
    rw [isActive_diagnoseNested]; exact isActive_of_selectLine hselect
  have haccept := acceptInterrupt_of_selected hc hselect
  refine ⟨_, (exec_of_ready .accept hf).trans (congrArg _ haccept), ?frame, fun m => ?slots, fun k _ => ?pending⟩
  case frame =>
    rw [deliver_eq hactive, exceptionLevel_eq_levelOf, diagnoseNested_eq]; rfl
  case slots =>
    rw [isActive_deliver, isActive_diagnoseNested]; rfl
  case pending =>
    rw [deliver_irq, getLsbD_clearPendingOf, diagnoseNested_eq]; rfl

end Sys2Proof.Machine
end

section
/-! PROOF. The controller's registers: a byte of IE (R162), a byte of IRQ (R164), and WRIE with the reads after it
(R88, R160). -/

namespace Sys2Proof.Machine

open Sys2Proof.Config

/-! ### One line after its shadow bit was written -/

/-- What a shadow-register write does to the line of a bit: at 1 the line is raised if it is let through, at 0 it is
lowered (R162, R164). -/
def reevaluateLine (l : Line) (bit through : Bool) (s : State) : State :=
  if bit then if through then activate l s else s else deactivate l s

theorem isActive_reevaluateLine (l m : Line) (bit through : Bool) (s : State) :
    isActive (reevaluateLine l bit through s) m
      = if m = l then bit && (isActive s m || through) else isActive s m := by
  cases bit with
  | false =>
    rw [reevaluateLine, if_neg Bool.false_ne_true, isActive_deactivate]
    by_cases hm : m = l <;> simp [hm]
  | true =>
    cases through with
    | false => simp [reevaluateLine]
    | true =>
      rw [reevaluateLine, if_pos rfl, if_pos rfl, isActive_activate]
      by_cases hm : m = l <;> simp [hm]

theorem counterAgrees_reevaluateLine (l : Line) (bit through : Bool) {s : State} (h : s.CounterAgrees) :
    (reevaluateLine l bit through s).CounterAgrees := by
  unfold reevaluateLine
  split
  · split
    · exact counterAgrees_activate l s h
    · exact h
  · exact counterAgrees_deactivate l s h

theorem lineRaised_of_reevaluateLine {l : Line} {s t : State} (h : t = reevaluateLine l true true s) :
    LineRaised l s t :=
  h ▸ lineRaised_activate l s

theorem lineLowered_of_reevaluateLine {l : Line} {through : Bool} {s t : State}
    (h : t = reevaluateLine l false through s) : LineLowered l s t :=
  h ▸ lineLowered_deactivate l s

/-- LINE.TRY or LINE.CLR by a bit: the pending bit, then the line, which `LEN` lets through (R181, R182). -/
theorem tryRaise_or_resetInt_eq (l : Line) (bit : Bool) (s : State) :
    (if bit then tryRaise l else resetInt l) s
      = reevaluateLine l bit (isEnabled s l) (setPending (shadowBit l) bit s) := by
  cases bit with
  | false => rfl
  | true => rcases tryRaise_cases l s with ⟨hen, h⟩ | ⟨hen, h⟩ <;> simp [reevaluateLine, hen, h]

/-! ### The loop over the shadow bits -/

/-- What holds before the loop, and is carried from bits 1..k to bits 1..k+1 by the body, holds after all N. -/
theorem eachShadowBit_induction {Q : Nat → State → Prop} {f : Nat → State → State} {s : State} (h0 : Q 0 s)
    (hf : ∀ k t, k < lineCount s.desc → Q k t → Q (k + 1) (f (k + 1) t)) :
    Q (lineCount s.desc) (eachShadowBit f s) := by
  have hprefix : ∀ n, n ≤ lineCount s.desc → Q n ((List.range' 1 n).foldl (fun t k => f k t) s) := by
    intro n
    induction n with
    | zero => exact fun _ => h0
    | succ n ih =>
      intro hn
      rw [List.range'_1_concat, List.foldl_concat, Nat.add_comm 1 n]
      exact hf n _ hn (ih (Nat.le_of_succ_le hn))
  exact hprefix _ (Nat.le_refl _)

theorem eq_lineOfBit_iff {d : Descriptor} {k : Nat} (hk : k ≤ lineCount d) (l : Line) :
    l = lineOfBit k ↔ l.toNat = k + 3 := by
  rw [← BitVec.toNat_inj, toNat_lineOfBit hk]

/-- The bits 1..N of `LEN` are the copied ones, the others stay (R162). -/
theorem getLsbD_copyToEnables (v : Nat → Bool) (s : State) (j : Nat) :
    (eachShadowBit (fun k => setEnabled (lineOfBit k) (v k)) s).len.getLsbD j
      = if 1 ≤ j ∧ j ≤ lineCount s.desc then v j else s.len.getLsbD j := by
  refine eachShadowBit_induction
    (Q := fun n t => t.len.getLsbD j = if 1 ≤ j ∧ j ≤ n then v j else s.len.getLsbD j) ?_ fun k t hk ht => ?_
  · rw [if_neg (by omega)]
  · have hN := lineCount_bounds s.desc
    have hbit : shadowBit (lineOfBit (k + 1)) = k + 1 := shadowBit_lineOfBit hk
    rw [getLsbD_setEnabled _ _ _ _ (by omega), hbit, ht]
    by_cases hj : j = k + 1
    · rw [if_pos hj, if_pos (by omega), hj]
    · rw [if_neg hj]
      exact if_congr (by omega) rfl rfl

/-- Every effective line re-evaluated by the bits that IRQ holds (R164). -/
def reevaluateLines (s : State) : State :=
  eachShadowBit (fun k => if s.irq.getLsbD k then tryRaise (lineOfBit k) else resetInt (lineOfBit k)) s

/-- Each round finds in IRQ the bit it writes there, so it writes the bitmap alone. -/
theorem sameButBitmap_reevaluateRound {s t : State} {k : Nat} (hk : k ≤ lineCount s.desc) (ht : SameButBitmap s t) :
    SameButBitmap s ((if s.irq.getLsbD k then tryRaise (lineOfBit k) else resetInt (lineOfBit k)) t) :=
  ht.trans (sameButBitmap_reevaluate (by rw [ht]; exact hk) (by rw [ht]))

theorem sameButBitmap_reevaluateLines (s : State) : SameButBitmap s (reevaluateLines s) :=
  eachShadowBit_keeps (P := SameButBitmap s) (fun _ _ _ hk ht => sameButBitmap_reevaluateRound hk ht) (.refl s)

theorem counterAgrees_reevaluateLines {s : State} (h : s.CounterAgrees) : (reevaluateLines s).CounterAgrees :=
  eachShadowBit_keeps (P := State.CounterAgrees)
    (fun k t _ _ ht => by rw [tryRaise_or_resetInt_eq]; exact counterAgrees_reevaluateLine _ _ _ ht) h

/-- Whether a line is active once the lines of bits 1..n are re-evaluated: one of these iff its bit is 1 and it was
active or is enabled (R164). -/
def activeAfterBits (s : State) (l : Line) (n : Nat) : Bool :=
  if 4 ≤ l.toNat ∧ l.toNat ≤ 3 + n then
    s.irq.getLsbD (l.toNat - 3) && (isActive s l || s.len.getLsbD (l.toNat - 3))
  else isActive s l

theorem activeAfterBits_zero (s : State) (l : Line) : activeAfterBits s l 0 = isActive s l := if_neg (by omega)

theorem isActive_reevaluateLines (s : State) (l : Line) :
    isActive (reevaluateLines s) l = activeAfterBits s l (lineCount s.desc) := by
  suffices hloop : SameButBitmap s (reevaluateLines s)
      ∧ isActive (reevaluateLines s) l = activeAfterBits s l (lineCount s.desc) from hloop.2
  refine eachShadowBit_induction (Q := fun n t => SameButBitmap s t ∧ isActive t l = activeAfterBits s l n)
    ⟨.refl s, (activeAfterBits_zero s l).symm⟩ fun k t hk ⟨hsame, ht⟩ => ?_
  refine ⟨sameButBitmap_reevaluateRound hk hsame, ?_⟩
  have hlen : t.len = s.len := by rw [hsame]
  have hpend : isActive (setPending (shadowBit (lineOfBit (k + 1))) (s.irq.getLsbD (k + 1)) t) l = isActive t l := rfl
  rw [tryRaise_or_resetInt_eq, isActive_reevaluateLine, hpend, ht, isEnabled, shadowBit_lineOfBit hk, hlen,
    activeAfterBits, activeAfterBits]
  by_cases hl : l.toNat = k + 1 + 3
  · have hbit : l.toNat - 3 = k + 1 := by omega
    rw [if_pos ((eq_lineOfBit_iff hk l).mpr hl), if_neg (by omega), if_pos (by omega), hbit]
  · rw [if_neg (mt (eq_lineOfBit_iff hk l).mp hl)]
    exact if_congr (by omega) rfl rfl

/-! ### The byte written, bit by bit -/

/-- The value a byte write stores in a shadow register, for a valid mask inside the bits that exist (R62, R64). -/
theorem getLsbD_mergedShadow {old valid mask : Shadow} (hsub : valid &&& mask = valid) (k : Nat) (data : Byte) {j : Nat}
    (hj : j < 22) :
    ((mergeByte ((old &&& mask).setWidth 24) k data).setWidth 22 &&& valid).getLsbD j
      = writtenBit old valid k data j := by
  have h24 : j < 24 := by omega
  rw [← hsub, writtenBit, BitVec.getLsbD_and, BitVec.getLsbD_setWidth, getLsbD_mergeByte _ _ _ _ h24,
    BitVec.getLsbD_setWidth, BitVec.getLsbD_and, BitVec.getLsbD_and]
  cases mask.getLsbD j <;> simp [hj, h24, Bool.and_comm]

/-! ### A write of a byte of IE -/

/-- The first half of a write of IE: the register and the `LEN` flags (R162). -/
def storeIe (v : Shadow) (s : State) : State :=
  eachShadowBit (fun k => setEnabled (lineOfBit k) (v.getLsbD k)) { s with ie := v }

theorem storeIe_frame (v : Shadow) (s : State) : storeIe v s = { s with ie := v, len := (storeIe v s).len } :=
  copyToEnables_frame (fun k => v.getLsbD k) { s with ie := v }

/-- The second half, line 3, writes the bitmap alone (R162). -/
theorem sameButBitmap_storeIe_writeIe (new : BitVec 24) (s : State) :
    SameButBitmap (storeIe (new.setWidth 22 &&& ieValid s.desc) s) (writeIe new s) :=
  sameButBitmap_nonmaskableLine _ _ _

theorem writeIe_ie (new : BitVec 24) (s : State) : (writeIe new s).ie = new.setWidth 22 &&& ieValid s.desc := by
  rw [writeIe_frame]

theorem getLsbD_writeIe_len (new : BitVec 24) (s : State) (j : Nat) :
    (writeIe new s).len.getLsbD j
      = if 1 ≤ j ∧ j ≤ lineCount s.desc then (writeIe new s).ie.getLsbD j else s.len.getLsbD j := by
  rw [writeIe_ie, sameButBitmap_storeIe_writeIe]
  exact getLsbD_copyToEnables _ _ j

/-- A write of IE is the register and the `LEN` flags, then line 3, which `IRQ[0]` lets through (R162). -/
theorem writeIe_eq (new : BitVec 24) (s : State) :
    writeIe new s = reevaluateLine 3 ((writeIe new s).ie.getLsbD 0) (s.irq.getLsbD 0)
      { s with ie := (writeIe new s).ie, len := (writeIe new s).len } := by
  have hstore := storeIe_frame (new.setWidth 22 &&& ieValid s.desc) s
  have hlen : (writeIe new s).len = (storeIe (new.setWidth 22 &&& ieValid s.desc) s).len := by
    rw [sameButBitmap_storeIe_writeIe]
  have hirq : (storeIe (new.setWidth 22 &&& ieValid s.desc) s).irq = s.irq := by rw [hstore]
  rw [writeIe_ie, hlen, ← hstore, ← hirq]
  rfl

/-- WR at an address of IE, with the bits it leaves there. -/
theorem exec_wr_ie {s : State} {addr : Addr} {k : Nat} (data : Byte) (hf : s.fatal = none)
    (hd : legalDescriptor s.desc = true) (ha : AddressOf s.desc .ie k addr) :
    ∃ new, exec (.wr addr data) s = .next (writeIe new s)
      ∧ ∀ j, j < 22 → (writeIe new s).ie.getLsbD j = writtenBit s.ie (ieValid s.desc) k data j :=
  ⟨_, exec_wr_of_addressOf data hf hd ha, fun j hj => by
    rw [writeIe_ie]; exact getLsbD_mergedShadow (ieValid_and_shadowMask s.desc) k data hj⟩

/-- Settles O35: `writeIe_eq` leaves the three cases of `reevaluateLine` for the non-maskable line. -/
theorem maskWriteEnablesLines : Obligations.MaskWriteEnablesLines := by
  intro s addr k data hf hd ha
  obtain ⟨new, hex, hbits⟩ := exec_wr_ie data hf hd ha
  have hline := writeIe_eq new s
  refine ⟨writeIe new s, hex, hbits, fun j _ => getLsbD_writeIe_len new s j, fun hie hirq => ?_, fun hie hirq => ?_,
    fun hie => ?_⟩
  · rw [hie, hirq] at hline
    exact lineRaised_of_reevaluateLine hline
  · rw [hie, hirq] at hline
    exact hline
  · rw [hie] at hline
    exact lineLowered_of_reevaluateLine hline

/-! ### A write of a byte of IRQ -/

/-- A write of IRQ is the register, the effective lines, then line 3, which `IE[0]` lets through (R164). -/
theorem writeIrq_eq {new : BitVec 24} {s w : State} (hw : w = { s with irq := new.setWidth 22 &&& irqValid s.desc }) :
    writeIrq new s = reevaluateLine 3 (w.irq.getLsbD 0) (w.ie.getLsbD 0) (reevaluateLines w) := by
  have hie : (reevaluateLines w).ie = w.ie := by rw [sameButBitmap_reevaluateLines]
  rw [← hie, hw]
  rfl

theorem writeIrq_irq (new : BitVec 24) (s : State) : (writeIrq new s).irq = new.setWidth 22 &&& irqValid s.desc := by
  rw [writeIrq_frame]

theorem counterAgrees_writeIrq (new : BitVec 24) {s : State} (h : s.CounterAgrees) : (writeIrq new s).CounterAgrees := by
  rw [writeIrq_eq rfl]
  exact counterAgrees_reevaluateLine _ _ _ (counterAgrees_reevaluateLines h)

/-- The lines after a write of IRQ: the effective ones by `LEN`, line 3 by `IE[0]`, the others as they were (R164). -/
theorem isActive_writeIrq (new : BitVec 24) (s : State) (l : Line) :
    isActive (writeIrq new s) l =
      if 4 ≤ l.toNat ∧ l.toNat ≤ 3 + lineCount s.desc then
        (writeIrq new s).irq.getLsbD (l.toNat - 3) && (isActive s l || s.len.getLsbD (l.toNat - 3))
      else if l.toNat = 3 then (writeIrq new s).irq.getLsbD 0 && (isActive s l || s.ie.getLsbD 0)
      else isActive s l := by
  rw [writeIrq_irq, writeIrq_eq rfl, isActive_reevaluateLine, isActive_reevaluateLines]
  by_cases hl : l = 3
  · subst hl; rfl
  · have hl3 : l.toNat ≠ 3 := fun h => hl (BitVec.eq_of_toNat_eq h)
    rw [if_neg hl, if_neg hl3]
    rfl

/-- Settles O36: the value is the merged one, the lines are `isActive_writeIrq`, the rest is `writeIrq_frame`. -/
theorem pendingWriteReevaluatesLines : Obligations.PendingWriteReevaluatesLines := by
  intro s addr k data hf hd hcnt ha
  refine ⟨_, exec_wr_of_addressOf data hf hd ha, ?_, counterAgrees_writeIrq _ hcnt, fun j hj => ?_,
    isActive_writeIrq _ s⟩
  · rw [writeRegister, writeIrq_frame]
  · rw [writeRegister, writeIrq_irq]
    exact getLsbD_mergedShadow (irqValid_and_shadowMask s.desc) k data hj

/-! ### Writing every byte of IE, and reading them back -/

/-- A register's bytes stand at its base and the addresses after it, which do not wrap (R60, R68). -/
theorem addressOf_add {d : Descriptor} {reg : Reg} {base : Addr} {bytes k : Nat} (hd : legalDescriptor d = true)
    (hm : (reg, base, bytes) ∈ registerMap d) (hk : k < bytes) : AddressOf d reg k (base + BitVec.ofNat 16 k) := by
  obtain ⟨-, -, hends, -⟩ := (legalDescriptor_iff d).mp hd
  have hend := hends _ hm
  refine ⟨base, bytes, hm, hk, ?_⟩
  dsimp only at hend
  rw [BitVec.toNat_add, BitVec.toNat_ofNat]
  omega

theorem addressOf_ie_byte {d : Descriptor} {k : Nat} (hd : legalDescriptor d = true) (hk : k < shadowBytes d) :
    AddressOf d .ie k (d.aIe + BitVec.ofNat 16 k) := addressOf_add hd (by simp [registerMap]) hk

/-- Commands after others run from where those ended. -/
theorem execAll_append {is js : List Instr} {s t : State} (h : execAll is s = .next t) :
    execAll (is ++ js) s = execAll js t := by
  induction is generalizing s with
  | nil => cases h; rfl
  | cons i is ih =>
    rw [List.cons_append, execAll]
    rw [execAll] at h
    cases hi : exec i s with
    | next u => rw [hi] at h; exact ih h
    | fault r => rw [hi] at h; cases h
    | refused r => rw [hi] at h; cases h

theorem execAll_singleton {i : Instr} {s t : State} (h : exec i s = .next t) : execAll [i] s = .next t := by
  rw [execAll, h]; rfl

theorem writeBytes_succ (base : Addr) (n v : Nat) :
    writeBytes base (n + 1) v
      = writeBytes base n v ++ [.wr (base + BitVec.ofNat 16 n) (BitVec.ofNat 8 (v / 2 ^ (8 * n)))] := by
  rw [writeBytes, writeBytes, List.range_succ, List.map_append, List.map_singleton]

/-- Bit `j` of a number, in the byte that WRIE takes of it (R88). -/
theorem getLsbD_byteOf (v : Nat) {n j : Nat} (h : 8 * n ≤ j ∧ j < 8 * n + 8) :
    (BitVec.ofNat 8 (v / 2 ^ (8 * n))).getLsbD (j - 8 * n) = v.testBit j := by
  rw [BitVec.getLsbD_ofNat, Nat.testBit_div_two_pow]
  simp [show j - 8 * n < 8 by omega, Nat.sub_add_cancel h.1]

/-- The first `n` bytes of WRIE: IE then holds the valid bits of the value in those bytes, and no invalid bit at all,
as the last write masked every byte. -/
theorem execAll_writeBytes_ie (v : Nat) {s : State} (hf : s.fatal = none) (hd : legalDescriptor s.desc = true) :
    ∀ n, n ≤ shadowBytes s.desc → ∃ t, execAll (writeBytes s.desc.aIe n v) s = .next t
      ∧ t.fatal = none ∧ t.desc = s.desc
      ∧ ∀ j, j < 22 → 0 < n → (j < 8 * n ∨ (ieValid s.desc).getLsbD j = false) →
          t.ie.getLsbD j = ((ieValid s.desc).getLsbD j && v.testBit j) := by
  intro n
  induction n with
  | zero => exact fun _ => ⟨s, rfl, hf, rfl, fun _ _ h => absurd h (Nat.lt_irrefl 0)⟩
  | succ n ih =>
    intro hn
    obtain ⟨t, hrun, htf, htd, hbits⟩ := ih (Nat.le_of_succ_le hn)
    have ha : AddressOf t.desc .ie n (s.desc.aIe + BitVec.ofNat 16 n) := by rw [htd]; exact addressOf_ie_byte hd hn
    obtain ⟨new, hex, hnew⟩ := exec_wr_ie (BitVec.ofNat 8 (v / 2 ^ (8 * n))) htf (htd ▸ hd) ha
    have hlines := sameButLines_writeIe new t
    refine ⟨writeIe new t, ?_, ?_, hlines.inputs.1.trans htd, fun j hj _ hwritten => ?_⟩
    · rw [writeBytes_succ, execAll_append hrun, execAll_singleton hex]
    · rw [hlines]; exact htf
    · rw [hnew j hj, writtenBit, htd]
      cases hvalid : (ieValid s.desc).getLsbD j with
      | false => rfl
      | true =>
        have hlt : j < 8 * (n + 1) := by simpa [hvalid] using hwritten
        by_cases hin : 8 * n ≤ j ∧ j < 8 * n + 8
        · rw [if_pos hin, getLsbD_byteOf v hin]
        · rw [if_neg hin, hbits j hj (by omega) (.inl (by omega)), hvalid, Bool.true_and]

theorem lineCount_lt_shadowBits (d : Descriptor) : lineCount d < 8 * shadowBytes d := by
  unfold shadowBytes shadowWidth; omega

/-- WRIE leaves in IE the value under `IE_VALID` (R88, R160, R162). -/
theorem execAll_wrie (v : Nat) {s : State} (hf : s.fatal = none) (hd : legalDescriptor s.desc = true) :
    ∃ t, execAll (expand s.desc (.wrie v)) s = .next t ∧ t.fatal = none ∧ t.desc = s.desc
      ∧ t.ie = BitVec.ofNat 22 v &&& ieValid s.desc := by
  obtain ⟨t, hrun, htf, htd, hbits⟩ := execAll_writeBytes_ie v hf hd _ (Nat.le_refl _)
  have hN := lineCount_lt_shadowBits s.desc
  refine ⟨t, hrun, htf, htd, BitVec.eq_of_getLsbD_eq fun j hj => ?_⟩
  have hwritten : j < 8 * shadowBytes s.desc ∨ (ieValid s.desc).getLsbD j = false := by
    cases hvalid : (ieValid s.desc).getLsbD j with
    | false => exact .inr rfl
    | true => exact .inl (lt_of_le_of_lt (le_of_ieValid hvalid) hN)
  rw [hbits j hj (by omega) hwritten, BitVec.getLsbD_and, BitVec.getLsbD_ofNat, Bool.and_comm]
  simp [hj]

theorem byteAt_setWidth_shadow (v : Shadow) (k : Nat) :
    byteAt (v.setWidth 24) k = BitVec.ofNat 8 (v.toNat / 2 ^ (8 * k)) := by
  have hv : v.toNat < 2 ^ 24 := v.isLt.trans (by decide)
  rw [byteAt, BitVec.extractLsb', BitVec.toNat_setWidth, Nat.mod_eq_of_lt hv, Nat.shiftRight_eq_div_pow]

/-- Settles O42: WRIE leaves the value under `IE_VALID` (`execAll_wrie`), of which RD returns the addressed byte. -/
theorem maskRoundTrip : Obligations.MaskRoundTrip := by
  intro s v hf hd
  obtain ⟨t, hrun, htf, htd, hie⟩ := execAll_wrie v hf hd
  refine ⟨t, hrun, hie, fun k hk => ?_⟩
  have ha : AddressOf t.desc .ie k (s.desc.aIe + BitVec.ofNat 16 k) := by rw [htd]; exact addressOf_ie_byte hd hk
  rw [exec_rd_of_addressOf htf (htd ▸ hd) ha, registerValue, hie, htd, BitVec.and_assoc, ieValid_and_shadowMask,
    byteAt_setWidth_shadow]

end Sys2Proof.Machine
end

section
/-! PROOF. Interrupt Lines: what LINE.EN, LINE.TRY and LINE.CLR write (R180 to R183), and how the triple (enabled,
pending, active) of a line moves under every operation that addresses one line (R184). -/

namespace Sys2Proof.Machine

/-! ### How the primitive operations move a line's triple -/

/-- From `s` to `t` the triple of line `l` moves by `after`, and the triple of every other maskable line stays. -/
def MovesLine (l : Line) (after : Bool × Bool × Bool → Bool × Bool × Bool) (s t : State) : Prop :=
  lineTriple t l = after (lineTriple s l) ∧ ∀ m : Line, m ≠ l → 4 ≤ m.toNat → lineTriple t m = lineTriple s m

theorem MovesLine.trans {l : Line} {f g : Bool × Bool × Bool → Bool × Bool × Bool} {s t u : State}
    (h : MovesLine l f s t) (h' : MovesLine l g t u) : MovesLine l (fun x => g (f x)) s u :=
  ⟨h'.1.trans (congrArg g h.1), fun m hm h4 => (h'.2 m hm h4).trans (h.2 m hm h4)⟩

/-- Only the value of `after` at the triple the line starts from matters. -/
theorem MovesLine.congr {l : Line} {f g : Bool × Bool × Bool → Bool × Bool × Bool} {s t : State}
    (h : MovesLine l f s t) (hfg : f (lineTriple s l) = g (lineTriple s l)) : MovesLine l g s t :=
  ⟨h.1.trans hfg, h.2⟩

/-- No two maskable lines share a shadow bit (R27). -/
theorem shadowBit_inj {l m : Line} (hl : 4 ≤ l.toNat) (hm : 4 ≤ m.toNat) : shadowBit m = shadowBit l ↔ m = l := by
  rw [← BitVec.toNat_inj, shadowBit, shadowBit, managedBase]; omega

theorem isPending_setPending {l m : Line} {s : State} (b : Bool) (hl : isEffective s.desc l = true)
    (hm : 4 ≤ m.toNat) :
    isPending (setPending (shadowBit l) b s) (shadowBit m) = if m = l then b else isPending s (shadowBit m) := by
  obtain ⟨-, -, hlt⟩ := shadowBit_bounds hl
  obtain ⟨h4, -⟩ := (isEffective_iff s.desc l).mp hl
  rw [isPending, getLsbD_setPending s _ _ b hlt]
  exact if_congr (shadowBit_inj h4 hm) rfl rfl

theorem isEnabled_setEnabled {l m : Line} {s : State} (b : Bool) (hl : isEffective s.desc l = true)
    (hm : 4 ≤ m.toNat) : isEnabled (setEnabled l b s) m = if m = l then b else isEnabled s m := by
  obtain ⟨-, -, hlt⟩ := shadowBit_bounds hl
  obtain ⟨h4, -⟩ := (isEffective_iff s.desc l).mp hl
  rw [isEnabled, getLsbD_setEnabled s l _ b hlt]
  exact if_congr (shadowBit_inj h4 hm) rfl rfl

theorem movesLine_activate (l : Line) (s : State) :
    MovesLine l (fun x => (x.1, x.2.1, true)) s (activate l s) := by
  refine ⟨?_, fun m hm _ => ?_⟩
  · simp [lineTriple, isEnabled, isPending, isActive_activate]
  · simp [lineTriple, isEnabled, isPending, isActive_activate, hm]

theorem movesLine_deactivate (l : Line) (s : State) :
    MovesLine l (fun x => (x.1, x.2.1, false)) s (deactivate l s) := by
  refine ⟨?_, fun m hm _ => ?_⟩
  · simp [lineTriple, isEnabled, isPending, isActive_deactivate]
  · simp [lineTriple, isEnabled, isPending, isActive_deactivate, hm]

theorem movesLine_setPending {l : Line} {s : State} (b : Bool) (hl : isEffective s.desc l = true) :
    MovesLine l (fun x => (x.1, b, x.2.2)) s (setPending (shadowBit l) b s) := by
  obtain ⟨h4, -⟩ := (isEffective_iff s.desc l).mp hl
  refine ⟨?_, fun m hm hm4 => ?_⟩
  · rw [lineTriple, isPending_setPending b hl h4, if_pos rfl]; rfl
  · rw [lineTriple, isPending_setPending b hl hm4, if_neg hm]; rfl

theorem movesLine_setEnabled {l : Line} {s : State} (b : Bool) (hl : isEffective s.desc l = true) :
    MovesLine l (fun x => (b, x.2.1, x.2.2)) s (setEnabled l b s) := by
  obtain ⟨h4, -⟩ := (isEffective_iff s.desc l).mp hl
  refine ⟨?_, fun m hm hm4 => ?_⟩
  · rw [lineTriple, isEnabled_setEnabled b hl h4, if_pos rfl]; rfl
  · rw [lineTriple, isEnabled_setEnabled b hl hm4, if_neg hm]; rfl

/-! ### The operations on a line -/

theorem tryRaise_of_enabled {l : Line} {s : State} (h : isEnabled s l = true) :
    tryRaise l s = activate l (setPending (shadowBit l) true s) := if_pos h

theorem tryRaise_of_disabled {l : Line} {s : State} (h : isEnabled s l = false) :
    tryRaise l s = setPending (shadowBit l) true s := if_neg (Bool.eq_false_iff.mp h)

/-- LINE.TRY writes of IRQ what setting the line's bit writes, whether or not it raises the line (R181). -/
theorem tryRaise_irq (l : Line) (s : State) : (tryRaise l s).irq = (setPending (shadowBit l) true s).irq := by
  rcases tryRaise_cases l s with ⟨-, h⟩ | ⟨-, h⟩ <;> rw [h]
  exact activate_irq _ l

theorem resetInt_irq (l : Line) (s : State) : (resetInt l s).irq = (setPending (shadowBit l) false s).irq :=
  deactivate_irq _ l

/-- LINE.TRY: pending in every case, and active if it was or if it is enabled (R181). -/
theorem movesLine_tryRaise {l : Line} {s : State} (hl : isEffective s.desc l = true) :
    MovesLine l (fun x => (x.1, true, x.2.2 || x.1)) s (tryRaise l s) := by
  have hpend := movesLine_setPending true hl
  cases hen : isEnabled s l with
  | true =>
    rw [tryRaise_of_enabled hen]
    exact (hpend.trans (movesLine_activate l _)).congr (by simp [lineTriple, hen])
  | false =>
    rw [tryRaise_of_disabled hen]
    exact hpend.congr (by simp [lineTriple, hen])

/-- LINE.CLR: neither pending nor active, whatever the flag (R182). -/
theorem movesLine_resetInt {l : Line} {s : State} (hl : isEffective s.desc l = true) :
    MovesLine l (fun x => (x.1, false, false)) s (resetInt l s) :=
  (movesLine_setPending false hl).trans (movesLine_deactivate l _)

/-- Of an effective line delivery clears its own pending bit (R145). -/
theorem clearPendingOf_of_effective {l : Line} {s : State} (hl : isEffective s.desc l = true) :
    clearPendingOf l s = setPending (shadowBit l) false s := by
  have h3 : l ≠ 3 := by
    rintro rfl
    exact absurd ((isEffective_iff _ _).mp hl).1 (by decide)
  rw [clearPendingOf, if_neg h3, if_pos hl]

/-- Delivery of an effective line is LINE.CLR to the triples of all lines (R145, R182). -/
theorem lineTriple_deliver {l : Line} {s : State} (hl : isEffective s.desc l = true) (m : Line) :
    lineTriple (deliver l s) m = lineTriple (resetInt l s) m := by
  rw [resetInt, ← clearPendingOf_of_effective hl]; rfl

/-- The sampling of the ports and the diagnostic write none of what the triples read (R148, R151). -/
theorem lineTriple_diagnoseNested_sampled (l m : Line) (s : State) :
    lineTriple (diagnoseNested l (sampled s)) m = lineTriple s m := by
  rw [diagnoseNested_eq]; rfl

/-- Acceptance of an effective line: its pending bit and its slot are cleared (R145). -/
theorem movesLine_acceptInterrupt {l : Line} {s : State} (hl : isEffective s.desc l = true) (hc : s.cnt ≠ 0)
    (hfirst : FirstDeliverable (sampled s) l) :
    MovesLine l (fun x => (x.1, false, false)) s (acceptInterrupt s) := by
  rw [acceptInterrupt_of_selected hc (selectLine_of_firstDeliverable hfirst)]
  have hl' : isEffective (diagnoseNested l (sampled s)).desc l = true := by rw [diagnoseNested_eq]; exact hl
  have hsame (m : Line) := lineTriple_diagnoseNested_sampled l m s
  obtain ⟨hself, hothers⟩ := movesLine_resetInt hl'
  refine ⟨?_, fun m hm h4 => ?_⟩
  · rw [lineTriple_deliver hl', hself, hsame]
  · rw [lineTriple_deliver hl', hothers m hm h4, hsame]

/-! ### The commands -/

theorem isEffective_eq_false {d : Config.Descriptor} {l : Line} (h : l.toNat < 4 ∨ 3 + lineCount d < l.toNat) :
    isEffective d l = false := by
  rw [← Bool.not_eq_true, isEffective_iff]; omega

/-- A line command: on an effective line its operation, whose shadow bit exists; `Fatal(5)` on any other index and
nothing else (R183). -/
theorem exec_of_lineCheck {i : Instr} {l : Line} {f : State → State} {Q : State → Prop} {s : State}
    (hf : s.fatal = none) (hi : perform respond i s = checked (isEffective s.desc l) .badLineHandle f s)
    (hQ : shadowBit l < 22 → Q (f s)) :
    (4 ≤ l.toNat ∧ l.toNat ≤ 3 + lineCount s.desc → ∃ t, exec i s = .next t ∧ Q t)
      ∧ (l.toNat < 4 ∨ 3 + lineCount s.desc < l.toNat →
        exec i s = .next { s with fatal := some .badLineHandle }) := by
  refine ⟨fun hin => ?_, fun hout => exec_of_checkFailed hf hi (isEffective_eq_false hout)⟩
  have hl := (isEffective_iff s.desc l).mpr hin
  obtain ⟨-, -, hlt⟩ := shadowBit_bounds hl
  exact ⟨f s, exec_of_checkPassed hf hi hl, hQ hlt⟩

/-- Settles O32: each column of R184 is a command whose operation moves the triple of its line alone. -/
theorem lineTripleMoves : Obligations.LineTripleMoves := by
  intro s l hf hlo hhi i after hcolumn
  have hl : isEffective s.desc l = true := (isEffective_iff s.desc l).mpr ⟨hlo, hhi⟩
  have hN := lineCount_bounds s.desc
  have hmi : isMaskable l = true := (isMaskable_iff l).mpr (by omega)
  have key : ∃ t, exec i s = .next t ∧ MovesLine l after s t := by
    rcases hcolumn with ⟨rfl, rfl⟩ | ⟨rfl, rfl⟩ | ⟨rfl, rfl⟩ | ⟨rfl, rfl⟩ | ⟨rfl, rfl⟩ | ⟨rfl, rfl⟩
      | ⟨rfl, hc, hfirst, rfl⟩
    · exact ⟨_, exec_of_checkPassed hf rfl hl, movesLine_tryRaise hl⟩
    · exact ⟨_, exec_of_checkPassed hf rfl hl, movesLine_resetInt hl⟩
    · exact ⟨_, exec_of_checkPassed hf rfl hl, movesLine_setEnabled true hl⟩
    · exact ⟨_, exec_of_checkPassed hf rfl hl, movesLine_setEnabled false hl⟩
    · exact ⟨_, exec_of_checkPassed hf rfl hmi, movesLine_activate l s⟩
    · exact ⟨_, exec_of_checkPassed hf rfl hmi, movesLine_deactivate l s⟩
    · exact ⟨_, exec_of_ready .accept hf, movesLine_acceptInterrupt hl hc hfirst⟩
  obtain ⟨t, hexec, hself, hothers⟩ := key
  exact ⟨t, hexec, hself, fun m hm h4 _ => hothers m hm h4⟩

/-- Settles O29: LINE.EN is `setEnabled` behind the check for an effective line. -/
theorem lineEnableWritesItsFlag : Obligations.LineEnableWritesItsFlag := fun s l b hf =>
  exec_of_lineCheck hf rfl fun hlt => ⟨rfl, fun k _ => getLsbD_setEnabled s l k b hlt⟩

/-- Settles O30: the pending bit is set in both cases, which `LEN` tells apart. -/
theorem lineTrySetsPending : Obligations.LineTrySetsPending := by
  refine fun s l hf => exec_of_lineCheck hf rfl fun hlt => ?_
  rw [tryRaise_irq]
  refine ⟨fun k _ => ?bits, fun hen => ?enabled, tryRaise_of_disabled⟩
  case bits =>
    rw [getLsbD_setPending s _ k true hlt, shadowBit, managedBase]
    by_cases hk : k = l.toNat - 3 <;> simp [hk]
  case enabled =>
    rw [tryRaise_of_enabled hen]; exact lineRaised_activate l _

/-- Settles O31: LINE.CLR is the pending bit cleared, then `deactivate`, with no look at `LEN`. -/
theorem lineClearClearsPending : Obligations.LineClearClearsPending := by
  refine fun s l hf => exec_of_lineCheck hf rfl fun hlt => ?_
  rw [resetInt_irq]
  refine ⟨fun k _ => ?bits, lineLowered_deactivate l _⟩
  case bits =>
    rw [getLsbD_setPending s _ k false hlt, shadowBit, managedBase]
    by_cases hk : k = l.toNat - 3 <;> simp [hk]

end Sys2Proof.Machine
end

section
/-! PROOF. The clock generator: the write rules of its four registers (R210 to R213), the threshold (R205), and what a
clock advance leaves in each domain (R200 to R208, R218), from which the tick rates follow (R216). -/

namespace Sys2Proof.Machine

open Sys2Proof.Config

/-! ### The register writes -/

/-- Settles O37: the byte merged into a one-byte register is the data (`setWidth_mergeByte_zero`). -/
theorem oscillatorWriteStoresFourBits : Obligations.OscillatorWriteStoresFourBits := by
  intro s addr data hf hd ha
  rw [exec_wr_of_addressOf data hf hd ha, writeRegister, setWidth_mergeByte_zero]
  rfl

/-- Settles O38: the interval written is the nominal one, which a legal descriptor keeps inside `LSLEN`. -/
theorem lowSpeedResetWrite : Obligations.LowSpeedResetWrite := by
  intro s addr data hf hd ha
  obtain ⟨-, hnom⟩ := lsNom_bounds hd
  refine ⟨BitVec.ofNat 32 (lsNom s.desc), ?_, exec_wr_of_addressOf data hf hd ha⟩
  rw [BitVec.toNat_ofNat, Nat.mod_eq_of_lt (by omega)]

/-- Settles O39: the write rule does not look at the merged value. -/
theorem highSpeedResetWrite : Obligations.HighSpeedResetWrite := fun _ _ data hf hd ha =>
  exec_wr_of_addressOf data hf hd ha

/-- Settles O40: the value stored is the merged one (R64), cut to the two bytes of ADJ. -/
theorem adjustWriteReplacesItsByte : Obligations.AdjustWriteReplacesItsByte := by
  intro s addr k data hf hd ha
  refine ⟨_, exec_wr_of_addressOf data hf hd ha, fun j hj => ?_⟩
  rw [BitVec.getLsbD_setWidth, getLsbD_mergeByte _ _ _ _ (by omega), registerValue, BitVec.getLsbD_setWidth]
  simp [hj, show j < 24 by omega]

/-! ### The threshold -/

/-- Truncation toward zero (R205). -/
def truncate (q : ℚ) : ℤ := if 0 ≤ q then ⌊q⌋ else ⌈q⌉

theorem truncate_of_nonneg {q : ℚ} (h : 0 ≤ q) : truncate q = ⌊q⌋ := if_pos h

theorem truncate_of_neg {q : ℚ} (h : q < 0) : truncate q = ⌈q⌉ := if_neg (not_le.mpr h)

theorem truncate_pos_iff {q : ℚ} : 0 < truncate q ↔ 1 ≤ q := by
  rcases le_or_gt 0 q with h | h
  · rw [truncate_of_nonneg h, Int.floor_pos]
  · have hceil : ⌈q⌉ ≤ 0 := Int.ceil_le.mpr (by exact_mod_cast h.le)
    rw [truncate_of_neg h]
    exact ⟨fun h' => by omega, fun h' => by linarith⟩

theorem truncate_neg_iff {q : ℚ} : truncate q < 0 ↔ q ≤ -1 := by
  rcases le_or_gt 0 q with h | h
  · have hfloor : 0 ≤ ⌊q⌋ := Int.floor_nonneg.mpr h
    rw [truncate_of_nonneg h]
    exact ⟨fun h' => by omega, fun h' => by linarith⟩
  · rw [truncate_of_neg h, ← Int.le_sub_one_iff, Int.ceil_le]
    norm_num

/-- Division of integers that rounds toward zero is truncation of the quotient. -/
theorem tdiv_eq_truncate {a b : ℤ} (ha : 0 < a) (hb : b ≠ 0) : a.tdiv b = truncate (a / b) := by
  have hquot (n : ℕ) : a.tdiv n = ⌊(a / n : ℚ)⌋ := by
    rw [Int.tdiv_eq_ediv_of_nonneg ha.le, Rat.floor_intCast_div_natCast]
  have haq : (0 : ℚ) < a := by exact_mod_cast ha
  obtain ⟨n, rfl | rfl⟩ := b.eq_nat_or_neg
  · rw [hquot, Int.cast_natCast, truncate_of_nonneg (by positivity)]
  · have hn : (0 : ℚ) < n := by exact_mod_cast (show 0 < n by omega)
    have hneg : (a : ℚ) / ((-(n : ℤ) : ℤ) : ℚ) = -(a / n) := by push_cast; exact div_neg _
    rw [Int.tdiv_neg, hquot, hneg, truncate_of_neg (neg_lt_zero.mpr (div_pos haq hn)), Int.ceil_neg]

theorem thresholdOf_zero (cps : Nat) : thresholdOf cps 0 = 0 := if_pos rfl

theorem thresholdOf_of_ne_zero (cps : Nat) {adj : BitVec 16} (h : adj ≠ 0) :
    thresholdOf cps adj = Int.tdiv ((baseFreq : Int) * (adj.toInt + adjK)) (adj.toInt * (cps : Int)) := if_neg h

theorem adj_toInt_ne_zero {adj : BitVec 16} (h : adj ≠ 0) : adj.toInt ≠ 0 := BitVec.toInt_ne.mpr h

theorem adj_bounds (adj : BitVec 16) : -32768 ≤ adj.toInt ∧ adj.toInt < 32768 :=
  ⟨BitVec.le_toInt adj, BitVec.toInt_lt⟩

/-- The numerator of the threshold is positive for every ADJ, so its sign is that of ADJ (R205). -/
theorem numerator_pos (adj : BitVec 16) : 0 < (baseFreq : Int) * (adj.toInt + adjK) := by
  obtain ⟨hlo, -⟩ := adj_bounds adj
  unfold baseFreq adjK
  omega

/-- The formula of R205 over the rationals. -/
def thresholdQuotient (cps : Nat) (adj : BitVec 16) : ℚ := 16384 * (1 + 2097152 / (adj.toInt : ℚ)) / (cps : ℚ)

theorem thresholdQuotient_eq_div (cps : Nat) {adj : BitVec 16} (h : adj ≠ 0) :
    thresholdQuotient cps adj
      = (((baseFreq : Int) * (adj.toInt + adjK) : ℤ) : ℚ) / ((adj.toInt * (cps : Int) : ℤ) : ℚ) := by
  have ha : (adj.toInt : ℚ) ≠ 0 := by exact_mod_cast adj_toInt_ne_zero h
  simp only [thresholdQuotient, baseFreq, adjK]
  push_cast
  field_simp

/-- The model's division of integers is the formula truncated toward zero. -/
theorem thresholdOf_eq_truncate {cps : Nat} {adj : BitVec 16} (hcps : 0 < cps) (h : adj ≠ 0) :
    thresholdOf cps adj = truncate (thresholdQuotient cps adj) := by
  have hden : adj.toInt * (cps : Int) ≠ 0 := mul_ne_zero (adj_toInt_ne_zero h) (by omega)
  rw [thresholdOf_of_ne_zero cps h, tdiv_eq_truncate (numerator_pos adj) hden, thresholdQuotient_eq_div cps h]

theorem thresholdQuotient_pos_iff {cps : Nat} {adj : BitVec 16} (hcps : 0 < cps) (h : adj ≠ 0) :
    0 < thresholdQuotient cps adj ↔ 0 < adj.toInt := by
  have hnum : (0 : ℚ) < (((baseFreq : Int) * (adj.toInt + adjK) : ℤ) : ℚ) := by exact_mod_cast numerator_pos adj
  have hcps' : (0 : Int) < cps := by omega
  rw [thresholdQuotient_eq_div cps h, div_pos_iff_of_pos_left hnum, Int.cast_pos, mul_pos_iff_of_pos_right hcps']

/-- Settles O47: the threshold is the truncated formula (`thresholdOf_eq_truncate`), whose sign is that of ADJ. -/
theorem thresholdIsTheTruncatedFormula : Obligations.ThresholdIsTheTruncatedFormula := by
  intro cps adj hcps
  refine ⟨fun h => h ▸ thresholdOf_zero cps, fun hadj q hq => ?_⟩
  have hT : thresholdOf cps adj = truncate q := (thresholdOf_eq_truncate hcps hadj).trans (congrArg truncate hq.symm)
  have hsign : 0 < q ↔ 0 < adj.toInt := by rw [hq]; exact thresholdQuotient_pos_iff hcps hadj
  rw [hT, truncate_pos_iff, truncate_neg_iff]
  refine ⟨rfl, ⟨fun h => ⟨hsign.mp (by linarith), h⟩, And.right⟩, fun h => ⟨?_, h⟩, And.right⟩
  have hle : ¬ 0 < adj.toInt := fun h' => by linarith [hsign.mpr h']
  have hne := adj_toInt_ne_zero hadj
  omega

/-- The magnitude is largest at `CPS` 32768 and ADJ 1, where the quotient is 1048576 and a half (R214). -/
theorem natAbs_thresholdOf_le {cps : Nat} (adj : BitVec 16) (h : 32768 ≤ cps) :
    (thresholdOf cps adj).natAbs ≤ 1048576 := by
  by_cases hadj : adj = 0
  · rw [hadj, thresholdOf_zero]; decide
  · have ha := adj_toInt_ne_zero hadj
    have hnum : ((baseFreq : Int) * (adj.toInt + adjK)).natAbs < 1048577 * (adj.toInt.natAbs * 32768) := by
      unfold baseFreq adjK; omega
    have hden : adj.toInt.natAbs * 32768 ≤ adj.toInt.natAbs * cps := Nat.mul_le_mul_left _ h
    rw [thresholdOf_of_ne_zero cps hadj, Int.natAbs_tdiv, Int.natAbs_mul adj.toInt, Int.natAbs_natCast]
    exact Nat.le_of_lt_succ (Nat.div_lt_of_lt_mul (by omega))

/-- Settles O48, which is `natAbs_thresholdOf_le`. -/
theorem thresholdIsBounded : Obligations.ThresholdIsBounded := fun _ adj h => natAbs_thresholdOf_le adj h

/-! ### The two halves of a clock advance -/

/-- A high-speed tick is due (R201). -/
def hsTickDue (s : State) : Bool := decide (hsdiv s ≤ s.hscnt.toNat + 1)

/-- The high-speed output is stepped: a tick, no pulse, and the sub-counter at its last step (R203). -/
def hsOutputDue (s : State) : Bool := hsTickDue s && !s.rsths && decide (s.hssub = 127#7)

/-- The secondary counter has one bit, so counting to 2 and starting again is its own addition (R202). -/
theorem countSystemTick_eq (s : State) :
    countSystemTick s = { s with ticksys := s.ticksys || decide (s.syscnt = 1#1), syscnt := s.syscnt + 1 } := by
  unfold countSystemTick
  have hbit : s.syscnt = 0 ∨ s.syscnt = 1 := by
    have h : ∀ v : BitVec 1, v = 0 ∨ v = 1 := by decide
    exact h s.syscnt
  rcases hbit with h | h <;> simp [h]

theorem advanceHsOutput_eq (s : State) :
    advanceHsOutput s =
      if s.rsths then s
      else if s.hssub = 127#7 then
        { s with hssub := 0, hsout := s.hsout + 1, hsedge := fallingEdge s.hsout (s.hsout + 1) }
      else { s with hssub := s.hssub + 1 } := by
  have hlast : s.hssub.toNat + 1 = hsSubsteps ↔ s.hssub = 127#7 := by
    rw [← BitVec.toNat_inj, hsSubsteps, Nat.succ_inj]; rfl
  unfold advanceHsOutput
  simp [hlast, BitVec.ofNat_add]

/-- Part (b) of CLKADV as one write (R200). The sub-counter has 128 steps in 7 bits, so its return to 0 is its own
addition (R203). -/
theorem advanceHighSpeed_eq (s : State) :
    advanceHighSpeed s = { s with
      tickhs := s.tickhs || hsTickDue s,
      hscnt := if hsTickDue s then 0 else s.hscnt + 1,
      ticksys := s.ticksys || hsTickDue s && decide (s.syscnt = 1#1),
      syscnt := if hsTickDue s then s.syscnt + 1 else s.syscnt,
      hssub := if hsTickDue s && !s.rsths then s.hssub + 1 else s.hssub,
      hsout := if hsOutputDue s then s.hsout + 1 else s.hsout,
      hsedge := if hsOutputDue s then fallingEdge s.hsout (s.hsout + 1) else s.hsedge } := by
  unfold advanceHighSpeed hsOutputDue
  by_cases h : hsdiv s ≤ s.hscnt.toNat + 1
  · have htick : hsTickDue s = true := decide_eq_true h
    rw [if_pos h, advanceHsOutput_eq, countSystemTick_eq]
    cases hpulse : s.rsths with
    | true => simp [htick]
    | false => by_cases hlast : s.hssub = 127#7 <;> simp [htick, hlast]
  · have htick : hsTickDue s = false := decide_eq_false h
    rw [if_neg h]
    simp [htick, BitVec.ofNat_add]

/-- The correction fires (R206). -/
def correctionFires (s : State) : Bool :=
  decide (threshold s ≠ 0) && decide ((threshold s).natAbs ≤ s.lstc.toNat + 1)

/-- The correction that waits for the next interval once the drift is advanced (R206). -/
def waitingCorrection (s : State) : Correction :=
  if correctionFires s then if 0 < threshold s then .shorten else .lengthen else s.lscorr

/-- A low-speed tick is due (R204). -/
def lsTickDue (s : State) : Bool := decide (s.lslen.toNat ≤ s.lscnt.toNat + 1)

/-- The low-speed output is stepped: a tick, no pulse, and the sub-counter at its last step (R207). -/
def lsOutputDue (s : State) : Bool :=
  lsTickDue s && !s.rstls && decide (s.lssub.toNat + 1 = s.desc.lsSubsteps)

theorem advanceDrift_eq (s : State) :
    advanceDrift s = { s with
      lscorr := waitingCorrection s,
      lstc := if threshold s = 0 ∨ correctionFires s then 0 else s.lstc + 1 } := by
  unfold advanceDrift waitingCorrection correctionFires
  by_cases hzero : threshold s = 0
  · simp [hzero]
  · by_cases hfires : (threshold s).natAbs ≤ s.lstc.toNat + 1
    · simp [hzero, hfires]
    · simp [hzero, hfires, BitVec.ofNat_add]

theorem advanceLsOutput_eq (s : State) :
    advanceLsOutput s =
      if s.rstls then s
      else if s.lssub.toNat + 1 = s.desc.lsSubsteps then
        { s with lssub := 0, lsout := s.lsout + 1, lsedge := fallingEdge s.lsout (s.lsout + 1) }
      else { s with lssub := s.lssub + 1 } := by
  unfold advanceLsOutput
  simp [BitVec.ofNat_add]

theorem advanceInterval_eq (s : State) :
    advanceInterval s = { s with
      tickls := s.tickls || lsTickDue s,
      lscnt := if lsTickDue s then 0 else s.lscnt + 1,
      lslen := if lsTickDue s then BitVec.ofInt 32 ((lsNom s.desc : Int) + correctionCycles s.lscorr) else s.lslen,
      lscorr := if lsTickDue s then .zero else s.lscorr,
      lssub := if lsOutputDue s then 0 else if lsTickDue s && !s.rstls then s.lssub + 1 else s.lssub,
      lsout := if lsOutputDue s then s.lsout + 1 else s.lsout,
      lsedge := if lsOutputDue s then fallingEdge s.lsout (s.lsout + 1) else s.lsedge } := by
  unfold advanceInterval lsOutputDue
  by_cases h : s.lslen.toNat ≤ s.lscnt.toNat + 1
  · have htick : lsTickDue s = true := decide_eq_true h
    rw [if_pos h, advanceLsOutput_eq]
    cases hpulse : s.rstls with
    | true => simp [htick]
    | false => by_cases hlast : s.lssub.toNat + 1 = s.desc.lsSubsteps <;> simp [htick, hlast]
  · have htick : lsTickDue s = false := decide_eq_false h
    rw [if_neg h]
    simp [htick, BitVec.ofNat_add]

/-- Part (c) of CLKADV in the enabled domain as one write. The drift is advanced before the interval, so an interval
that starts in this cycle consumes the correction that fires in it (R200, R206). -/
theorem advanceLowSpeed_of_enabled {s : State} (h : lsen s = true) :
    advanceLowSpeed s = { s with
      tickls := s.tickls || lsTickDue s,
      lscnt := if lsTickDue s then 0 else s.lscnt + 1,
      lslen := if lsTickDue s then BitVec.ofInt 32 ((lsNom s.desc : Int) + correctionCycles (waitingCorrection s))
        else s.lslen,
      lscorr := if lsTickDue s then .zero else waitingCorrection s,
      lstc := if threshold s = 0 ∨ correctionFires s then 0 else s.lstc + 1,
      lssub := if lsOutputDue s then 0 else if lsTickDue s && !s.rstls then s.lssub + 1 else s.lssub,
      lsout := if lsOutputDue s then s.lsout + 1 else s.lsout,
      lsedge := if lsOutputDue s then fallingEdge s.lsout (s.lsout + 1) else s.lsedge } := by
  rw [advanceLowSpeed, if_pos h, advanceInterval_eq, advanceDrift_eq]
  rfl

theorem advanceLowSpeed_of_disabled {s : State} (h : lsen s = false) : advanceLowSpeed s = s :=
  if_neg (Bool.eq_false_iff.mp h)

theorem lsen_advanceHighSpeed (s : State) : lsen (advanceHighSpeed s) = lsen s := by
  rw [advanceHighSpeed_eq]; rfl

/-- Parts (b) and (c) of CLKADV do not read each other's state and may be evaluated in either order (R200). -/
theorem advanceLowSpeed_advanceHighSpeed (s : State) :
    advanceLowSpeed (advanceHighSpeed s) = advanceHighSpeed (advanceLowSpeed s) := by
  have hen := lsen_advanceHighSpeed s
  cases h : lsen s with
  | false => rw [advanceLowSpeed_of_disabled h, advanceLowSpeed_of_disabled (hen.trans h)]
  | true =>
    rw [advanceLowSpeed_of_enabled h, advanceLowSpeed_of_enabled (hen.trans h)]
    simp only [advanceHighSpeed_eq]
    rfl

/-! ### What a clock advance leaves in each domain -/

/-- A state that differs from `s` in the high-speed and system counters, output, edge byte and tick flags alone. -/
def SameButHighSpeed (s t : State) : Prop :=
  t = { s with
    hscnt := t.hscnt, syscnt := t.syscnt, hssub := t.hssub, hsout := t.hsout, hsedge := t.hsedge,
    tickhs := t.tickhs, ticksys := t.ticksys }

/-- A state that differs from `s` in the low-speed counters, output, edge byte, tick flag and correction alone. -/
def SameButLowSpeed (s t : State) : Prop :=
  t = { s with
    lscnt := t.lscnt, lslen := t.lslen, lstc := t.lstc, lscorr := t.lscorr, lssub := t.lssub, lsout := t.lsout,
    lsedge := t.lsedge, tickls := t.tickls }

/-- Part (b) leaves the low-speed domain as part (c) puts it. -/
theorem sameButHighSpeed_clockAdvance (s : State) :
    SameButHighSpeed (advanceLowSpeed (latchResetPulses s)) (clockAdvance s) := by
  rw [clockAdvance, advanceLowSpeed_advanceHighSpeed, advanceHighSpeed_eq]
  rfl

/-- Part (c) leaves the high-speed and the system domain as part (b) puts them. -/
theorem sameButLowSpeed_clockAdvance (s : State) :
    SameButLowSpeed (advanceHighSpeed (latchResetPulses s)) (clockAdvance s) := by
  unfold clockAdvance
  cases h : lsen (advanceHighSpeed (latchResetPulses s)) with
  | false => rw [advanceLowSpeed_of_disabled h]; rfl
  | true => rw [advanceLowSpeed_of_enabled h]; rfl

/-- The edge byte of a domain, which is 0 in a cycle that does not step its output (R203, R207). -/
theorem getLsbD_edgeByte (due : Bool) (out : Byte) {j : Nat} (hj : j < 8) :
    (if due then fallingEdge out (out + 1) else 0).getLsbD j = (due && out.getLsbD j && !(out + 1).getLsbD j) := by
  cases due with
  | false => simp
  | true => simp [fallingEdge, hj]

/-- A counter that has not reached its last value is advanced as an integer (R7, R214). -/
theorem toNat_add_one {w : Nat} {v : BitVec w} (h : v.toNat + 1 < 2 ^ w) : (v + 1).toNat = v.toNat + 1 := by
  simp [BitVec.toNat_add, Nat.mod_eq_of_lt h]

/-! ### The high-speed and system domains -/

theorem hsdiv_eq (s : State) : hsdiv s = 2 ^ min (s.osccfg.toNat % 8) 6 := by
  simp [hsdiv]

theorem hsTickDue_iff (s : State) : hsTickDue s = true ↔ 2 ^ min (s.osccfg.toNat % 8) 6 ≤ s.hscnt.toNat + 1 := by
  rw [hsTickDue, decide_eq_true_eq, hsdiv_eq]

theorem hsOutputDue_iff (s : State) :
    hsOutputDue s = true ↔ hsTickDue s = true ∧ s.rsths = false ∧ s.hssub.toNat = 127 := by
  have hlast : s.hssub = 127#7 ↔ s.hssub.toNat = 127 := BitVec.toNat_inj.symm
  simp [hsOutputDue, hlast, and_assoc]

/-- HSDIV is at most 64, so HSCNT does not pass its seven bits before the tick that returns it to 0 (R30, R201). -/
theorem toNat_hscnt_advanced (s : State) :
    (if hsTickDue s then 0 else s.hscnt + 1).toNat = if hsTickDue s then 0 else s.hscnt.toNat + 1 := by
  cases h : hsTickDue s with
  | true => rfl
  | false =>
    have hlt := of_decide_eq_false h
    have hdiv := hsdiv_le s
    exact toNat_add_one (by omega)

/-- Settles O44: the high-speed domain is as part (b) puts it (`sameButLowSpeed_clockAdvance`), and that is
`advanceHighSpeed_eq`. -/
theorem highSpeedAdvance : Obligations.HighSpeedAdvance := by
  intro s ⟨htickhs, hticksys, _, _, _, hedge, _⟩ tick wrap htick hwrap
  obtain rfl : tick = hsTickDue s := Bool.eq_iff_iff.mpr (htick.trans (hsTickDue_iff s).symm)
  obtain rfl : wrap = hsOutputDue (latchResetPulses s) :=
    Bool.eq_iff_iff.mpr (hwrap.trans (hsOutputDue_iff (latchResetPulses s)).symm)
  have hframe := sameButLowSpeed_clockAdvance s
  rw [advanceHighSpeed_eq] at hframe
  rw [hframe]
  refine ⟨rfl, rfl, ?tickhs, toNat_hscnt_advanced s, ?ticksys, ?syscnt, ?hssub, rfl, fun j hj => ?hsedge⟩
  case tickhs => show (s.tickhs || _) = _; rw [htickhs, Bool.false_or]; rfl
  case ticksys => show (s.ticksys || _) = _; rw [hticksys, Bool.false_or]; rfl
  case syscnt =>
    have htoggle : ∀ v : BitVec 1, (v + 1).toNat = 1 - v.toNat := by decide
    show (if hsTickDue s then s.syscnt + 1 else s.syscnt).toNat = _
    rw [apply_ite BitVec.toNat, htoggle]
  case hssub =>
    show (if hsTickDue s && !s.rsthsreq then s.hssub + 1 else s.hssub).toNat = _
    rw [apply_ite BitVec.toNat, BitVec.toNat_add]
    simp
  case hsedge =>
    show (if hsOutputDue _ then fallingEdge s.hsout (s.hsout + 1) else s.hsedge).getLsbD j = _
    rw [hedge, getLsbD_edgeByte _ _ hj]

/-! ### The tick rates -/

theorem clockCycle_flagsClear (s : State) : (clockCycle s).CycleFlagsClear := ⟨rfl, rfl, rfl, rfl, rfl, rfl, rfl⟩

/-- A cycle does not write OSCCFG, so the divider stays (R200). -/
theorem hsdiv_clockCycle (s : State) : hsdiv (clockCycle s) = hsdiv s := by
  have hosc : (clockCycle s).osccfg = s.osccfg := by
    show (clockAdvance s).osccfg = s.osccfg
    rw [sameButClock_clockAdvance]
  rw [hsdiv, hosc, hsdiv]

/-- What `highSpeedAdvance` says of the counters and the ticks (R201, R202). -/
theorem clockAdvance_ticks {s : State} (h : s.CycleFlagsClear) :
    (clockAdvance s).tickhs = hsTickDue s
      ∧ (clockAdvance s).hscnt.toNat = (if hsTickDue s then 0 else s.hscnt.toNat + 1)
      ∧ (clockAdvance s).ticksys = (hsTickDue s && decide (s.syscnt = 1))
      ∧ (clockAdvance s).syscnt.toNat = (if hsTickDue s then 1 - s.syscnt.toNat else s.syscnt.toNat) := by
  obtain ⟨-, -, htick, hcnt, hsys, hsyscnt, -⟩ := highSpeedAdvance s h (hsTickDue s)
    (hsOutputDue (latchResetPulses s)) (hsTickDue_iff s) (hsOutputDue_iff _)
  exact ⟨htick, hcnt, hsys, hsyscnt⟩

/-- One cycle of the high-speed divider: the phase moves by one, and a tick takes `HSDIV` off it (R201). -/
theorem hscnt_clockCycle {s : State} (h : s.CycleFlagsClear) (hlt : s.hscnt.toNat < hsdiv s) :
    (clockCycle s).hscnt.toNat < hsdiv s
      ∧ (clockCycle s).hscnt.toNat + hsdiv s * (if (clockAdvance s).tickhs then 1 else 0) = s.hscnt.toNat + 1 := by
  obtain ⟨htick, hcnt, -, -⟩ := clockAdvance_ticks h
  rw [show (clockCycle s).hscnt = (clockAdvance s).hscnt from rfl, htick, hcnt]
  cases hdue : hsTickDue s with
  | true =>
    have hge := of_decide_eq_true hdue
    simp only [if_true]; omega
  | false =>
    have hnot := of_decide_eq_false hdue
    simp only [Bool.false_eq_true, if_false]; omega

/-- One cycle of the secondary counter: it counts the high-speed tick, and a system tick takes two off it (R202). -/
theorem syscnt_clockCycle {s : State} (h : s.CycleFlagsClear) :
    (clockCycle s).syscnt.toNat + 2 * (if (clockAdvance s).ticksys then 1 else 0)
      = s.syscnt.toNat + (if (clockAdvance s).tickhs then 1 else 0) := by
  obtain ⟨htick, -, hsys, hcnt⟩ := clockAdvance_ticks h
  rw [show (clockCycle s).syscnt = (clockAdvance s).syscnt from rfl, htick, hsys, hcnt]
  have hbit : ∀ v : BitVec 1, 1 - v.toNat + 2 * (if decide (v = 1) then 1 else 0) = v.toNat + 1 := by decide
  cases hsTickDue s with
  | true => exact hbit s.syscnt
  | false => rfl

theorem hsTicks_eq (n : Nat) {s : State} (h : s.CycleFlagsClear) (hlt : s.hscnt.toNat < hsdiv s) :
    hsTicks n s = (s.hscnt.toNat + n) / hsdiv s := by
  induction n generalizing s with
  | zero => rw [hsTicks, Nat.add_zero, Nat.div_eq_of_lt hlt]
  | succ n ih =>
    obtain ⟨hlt', hphase⟩ := hscnt_clockCycle h hlt
    have hdiv := hsdiv_clockCycle s
    have hsplit : s.hscnt.toNat + (n + 1)
        = (clockCycle s).hscnt.toNat + n + hsdiv s * (if (clockAdvance s).tickhs then 1 else 0) := by omega
    rw [hsTicks, ih (clockCycle_flagsClear s) (hdiv ▸ hlt'), hdiv, hsplit, Nat.add_mul_div_left _ _ (by omega),
      Nat.add_comm]

theorem sysTicks_eq (n : Nat) {s : State} (h : s.CycleFlagsClear) :
    sysTicks n s = (s.syscnt.toNat + hsTicks n s) / 2 := by
  induction n generalizing s with
  | zero =>
    have hbit := s.syscnt.isLt
    rw [sysTicks, hsTicks]; omega
  | succ n ih =>
    have hphase := syscnt_clockCycle h
    rw [sysTicks, hsTicks, ih (clockCycle_flagsClear s)]
    omega

/-- Settles O49: each counter keeps phase plus ticks times divisor equal to the cycles gone by. -/
theorem tickRates : Obligations.TickRates := fun _ n h hlt => ⟨hsTicks_eq n h hlt, sysTicks_eq n h⟩

/-! ### The low-speed domain -/

/-- Settles O46: part (c) does nothing, and part (b) writes no low-speed state. -/
theorem lowSpeedHoldsWhenDisabled : Obligations.LowSpeedHoldsWhenDisabled := by
  intro s hen
  have hframe := sameButHighSpeed_clockAdvance s
  rw [advanceLowSpeed_of_disabled (show lsen (latchResetPulses s) = false from hen)] at hframe
  rw [hframe]
  exact ⟨rfl, rfl, rfl, rfl, rfl, rfl, rfl, rfl, rfl, rfl⟩

theorem correctionFires_iff (s : State) :
    correctionFires s = true ↔ threshold s ≠ 0 ∧ (threshold s).natAbs ≤ s.lstc.toNat + 1 := by
  simp [correctionFires]

theorem correctionCycles_waitingCorrection (s : State) :
    correctionCycles (waitingCorrection s)
      = if correctionFires s then (if 0 < threshold s then -1 else 1) else correctionCycles s.lscorr := by
  rw [waitingCorrection, apply_ite correctionCycles, apply_ite correctionCycles]
  rfl

/-- LSCNT stays below LSLEN, so it is the tick that it reaches it (R204). -/
theorem lsTickDue_iff {s : State} (h : s.lscnt.toNat < s.lslen.toNat) :
    lsTickDue s = true ↔ s.lslen.toNat = s.lscnt.toNat + 1 := by
  rw [lsTickDue, decide_eq_true_eq]; omega

theorem lsOutputDue_iff (s : State) :
    lsOutputDue s = true ↔ lsTickDue s = true ∧ s.rstls = false ∧ s.lssub.toNat + 1 = s.desc.lsSubsteps := by
  simp [lsOutputDue, and_assoc]

/-- LSCNT stays below LSLEN, whose 32 bits it has (R204). -/
theorem toNat_lscnt_advanced {s : State} (h : s.lscnt.toNat < s.lslen.toNat) :
    (if lsTickDue s then 0 else s.lscnt + 1).toNat = if lsTickDue s then 0 else s.lscnt.toNat + 1 := by
  have hlen := s.lslen.isLt
  rw [apply_ite BitVec.toNat, toNat_add_one (by omega)]
  rfl

/-- The threshold is below the 32 bits of LSTC, which counts up to it (R206, R214). -/
theorem toNat_lstc_advanced {s : State} (hd : legalDescriptor s.desc = true) (hne : threshold s ≠ 0)
    (hno : correctionFires s = false) : (s.lstc + 1).toNat = s.lstc.toNat + 1 := by
  obtain ⟨hcps, -⟩ := (legalDescriptor_iff s.desc).mp hd
  have hbound : (threshold s).natAbs ≤ 1048576 := natAbs_thresholdOf_le s.adj hcps
  have hbelow : ¬ (threshold s).natAbs ≤ s.lstc.toNat + 1 := fun h =>
    Bool.eq_false_iff.mp hno ((correctionFires_iff s).mpr ⟨hne, h⟩)
  exact toNat_add_one (by omega)

/-- LSSUB returns to 0 at LS_SUBSTEPS, at most 128, before it passes its seven bits (R207). -/
theorem toNat_lssub_advanced {s : State} (hd : legalDescriptor s.desc = true)
    (h : s.lssub.toNat < s.desc.lsSubsteps) :
    (if lsOutputDue s then 0 else if lsTickDue s && !s.rstls then s.lssub + 1 else s.lssub).toNat
      = if lsOutputDue s then 0 else if lsTickDue s ∧ s.rstls = false then s.lssub.toNat + 1 else s.lssub.toNat := by
  obtain ⟨-, hle⟩ := lsSubsteps_bounds hd
  cases hdue : lsOutputDue s with
  | true => rfl
  | false =>
    by_cases hcounts : lsTickDue s = true ∧ s.rstls = false
    · have hlast : s.lssub.toNat + 1 ≠ s.desc.lsSubsteps := fun hlast =>
        Bool.eq_false_iff.mp hdue ((lsOutputDue_iff s).mpr ⟨hcounts.1, hcounts.2, hlast⟩)
      have hbound : s.lssub.toNat + 1 < 128 := by omega
      simp [hcounts, hbound]
    · simp [hcounts]

/-- Settles O45: the low-speed domain is as part (c) puts it (`sameButHighSpeed_clockAdvance`), that is
`advanceLowSpeed_of_enabled`, and in their ranges the counters do not pass their widths. -/
theorem lowSpeedAdvance : Obligations.LowSpeedAdvance := by
  intro s hd ⟨_, hsub, _, _, hcnt⟩ ⟨_, _, htickls, _, _, _, hedge⟩ hen fires tick wrap corr hfires htick hwrap
    hcorr
  obtain rfl : fires = correctionFires s := Bool.eq_iff_iff.mpr (hfires.trans (correctionFires_iff s).symm)
  obtain rfl : tick = lsTickDue s := Bool.eq_iff_iff.mpr (htick.trans (lsTickDue_iff hcnt).symm)
  obtain rfl : wrap = lsOutputDue (latchResetPulses s) :=
    Bool.eq_iff_iff.mpr (hwrap.trans (lsOutputDue_iff (latchResetPulses s)).symm)
  obtain rfl : corr = correctionCycles (waitingCorrection s) :=
    hcorr.trans (correctionCycles_waitingCorrection s).symm
  have hframe := sameButHighSpeed_clockAdvance s
  rw [advanceLowSpeed_of_enabled (show lsen (latchResetPulses s) = true from hen)] at hframe
  rw [hframe]
  refine ⟨rfl, rfl, ?tickls, toNat_lscnt_advanced hcnt, ?lslen, apply_ite correctionCycles _ _ _,
    fun h => if_pos h.symm, fun hno hne => ?lstc, toNat_lssub_advanced (s := latchResetPulses s) hd hsub, rfl,
    fun j hj => ?lsedge⟩
  case tickls => show (s.tickls || _) = _; rw [htickls, Bool.false_or]; rfl
  case lslen =>
    rw [← toNat_correctedInterval hd, ← Nat.cast_ite, ← apply_ite BitVec.toNat]
    rfl
  case lstc =>
    have hcounts : ¬ (threshold s = 0 ∨ correctionFires s = true) := by simp [hno, show threshold s ≠ 0 from hne]
    exact (congrArg BitVec.toNat (if_neg hcounts)).trans (toNat_lstc_advanced hd hne hno)
  case lsedge =>
    show (if lsOutputDue _ then fallingEdge s.lsout (s.lsout + 1) else s.lsedge).getLsbD j = _
    rw [hedge, getLsbD_edgeByte _ _ hj]

end Sys2Proof.Machine
end

section
/-! PROOF. STOPPED and HALTED are alike inside the block (R239): every operation takes states that differ only in which
of the two it is to such states, since it either does not read the run mode or asks only whether it is RUNNING. -/

namespace Sys2Proof.Machine

open Sys2Proof.Config

/-! ### Operations that do not tell STOPPED from HALTED -/

/-- Two states alike but for which rest mode they are in stay so under `f`. -/
def BlindToRest (f : State → State) : Prop := ∀ s s', AlikeButForRest s s' → AlikeButForRest (f s) (f s')

theorem alikeButForRest_iff (s s' : State) :
    AlikeButForRest s s' ↔ ∃ m, (s.runmode = .running ↔ m = .running) ∧ s' = { s with runmode := m } := by
  constructor
  · rintro ⟨heq, hrun⟩
    exact ⟨s'.runmode, hrun, heq⟩
  · rintro ⟨m, hrun, rfl⟩
    exact ⟨rfl, hrun⟩

variable {f g : State → State} {r : Responder}

/-- What does not depend on the run mode is the same in both states. -/
theorem AlikeButForRest.read_eq {α : Type} {read : State → α}
    (hread : ∀ s m, read { s with runmode := m } = read s) {s s' : State} (h : AlikeButForRest s s') :
    read s' = read s := by
  obtain ⟨m, -, rfl⟩ := (alikeButForRest_iff s s').mp h
  exact hread s m

/-- The clocks advance alike in every run mode (R209). -/
theorem clockAdvance_withRunmode (s : State) (m : RunMode) :
    clockAdvance { s with runmode := m } = { clockAdvance s with runmode := m } := by
  have hlow (t : State) : advanceLowSpeed { t with runmode := m } = { advanceLowSpeed t with runmode := m } := by
    cases h : lsen t with
    | false => rw [advanceLowSpeed_of_disabled h, advanceLowSpeed_of_disabled (by exact h)]
    | true =>
      rw [advanceLowSpeed_of_enabled h, advanceLowSpeed_of_enabled (by exact h)]
      rfl
  unfold clockAdvance
  rw [← hlow]
  simp only [advanceHighSpeed_eq]
  rfl

namespace BlindToRest

/-- An operation that neither reads nor writes the run mode. -/
theorem of_commutes (h : ∀ s m, f { s with runmode := m } = { f s with runmode := m }) : BlindToRest f := by
  intro s s' hs
  obtain ⟨m, hrun, rfl⟩ := (alikeButForRest_iff s s').mp hs
  have hkeeps : (f s).runmode = s.runmode := by simpa using congrArg State.runmode (h s s.runmode)
  exact (alikeButForRest_iff _ _).mpr ⟨m, hkeeps ▸ hrun, h s m⟩

protected theorem id : BlindToRest fun s => s := fun _ _ h => h

theorem comp (hf : BlindToRest f) (hg : BlindToRest g) : BlindToRest fun s => g (f s) :=
  fun _ _ h => hg _ _ (hf _ _ h)

/-- An operation chosen by what the state says, in whatever part that does not depend on the run mode. -/
theorem chosen {α : Type} {op : α → State → State} {read : State → α} (hop : ∀ a, BlindToRest (op a))
    (hread : ∀ s m, read { s with runmode := m } = read s := by intros; rfl) :
    BlindToRest fun s => op (read s) s := fun s s' h => by
  dsimp only
  rw [h.read_eq hread]
  exact hop _ s s' h

theorem ite {c : State → Prop} [DecidablePred c] (hf : BlindToRest f) (hg : BlindToRest g)
    (hc : ∀ s m, c { s with runmode := m } = c s := by intros; rfl) :
    BlindToRest fun s => if c s then f s else g s := fun s s' h => by
  have hcond := h.read_eq hc
  by_cases hs : c s
  · simpa only [hcond, if_pos hs] using hf s s' h
  · simpa only [hcond, if_neg hs] using hg s s' h

theorem unlessFatal (hf : BlindToRest f) : BlindToRest (unlessFatal f) := fun s s' h => by
  have hfatal : s'.fatal = s.fatal := h.read_eq (read := State.fatal) fun _ _ => rfl
  by_cases hs : s.fatal = none
  · rw [unlessFatal_of_none hs, unlessFatal_of_none (hfatal.trans hs)]; exact hf s s' h
  · rw [unlessFatal_of_faulted hs, unlessFatal_of_faulted (hfatal ▸ hs)]; exact h

theorem inOrder {fs : List (State → State)} (h : ∀ f ∈ fs, BlindToRest f) : BlindToRest (inOrder fs) := by
  induction fs with
  | nil => exact .id
  | cons f fs ih =>
    obtain ⟨hf, hfs⟩ := List.forall_mem_cons.mp h
    exact hf.unlessFatal.comp (ih hfs)

theorem eachFrom {f : Nat → Peripheral → State → State} (h : ∀ n p, BlindToRest (f n p)) (n : Nat)
    (ps : List Peripheral) : BlindToRest (eachFrom f n ps) := by
  induction ps generalizing n with
  | nil => exact .id
  | cons p ps ih => exact (h n p).unlessFatal.comp (ih (n + 1))

theorem eachPeripheral {f : Nat → Peripheral → State → State} (h : ∀ n p, BlindToRest (f n p)) :
    BlindToRest (eachPeripheral f) := chosen (read := fun s => s.desc.periphs) (eachFrom h 0)

theorem eachShadowBit {f : Nat → State → State} (h : ∀ k, BlindToRest (f k)) : BlindToRest (eachShadowBit f) := by
  have hfold (ks : List Nat) : BlindToRest fun s => ks.foldl (fun s k => f k s) s := by
    induction ks with
    | nil => exact .id
    | cons k ks ih => exact (h k).comp ih
  exact chosen (read := fun s => List.range' 1 (lineCount s.desc)) hfold

/-! ### The operations on lines and shadow bits -/

theorem raiseFatal (c : FatalCode) : BlindToRest (raiseFatal c) := of_commutes fun _ _ => rfl

theorem emit (e : Event) : BlindToRest (emit e) := of_commutes fun _ _ => rfl

theorem checked {ok : State → Bool} (c : FatalCode) (hf : BlindToRest f)
    (hok : ∀ s m, ok { s with runmode := m } = ok s := by intros; rfl) :
    BlindToRest fun s => checked (ok s) c f s :=
  ite (c := fun s => ok s = true) hf (raiseFatal c) fun s m => congrArg (· = true) (hok s m)

theorem activate (l : Line) : BlindToRest (activate l) :=
  ite (c := fun s => isActive s l = true) .id (of_commutes fun _ _ => rfl)

theorem deactivate (l : Line) : BlindToRest (deactivate l) :=
  ite (c := fun s => isActive s l = true) (of_commutes fun _ _ => rfl) .id

theorem setPending (k : Nat) (b : Bool) : BlindToRest (setPending k b) := of_commutes fun _ _ => rfl

theorem setEnabled (l : Line) (b : Bool) : BlindToRest (setEnabled l b) := of_commutes fun _ _ => rfl

theorem samplePorts : BlindToRest samplePorts := of_commutes fun _ _ => by simp only [samplePorts_eq]; rfl

theorem tryRaise (l : Line) : BlindToRest (tryRaise l) :=
  (setPending (shadowBit l) true).comp (ite (c := fun s => isEnabled s l = true) (activate l) .id)

theorem resetInt (l : Line) : BlindToRest (resetInt l) := (setPending (shadowBit l) false).comp (deactivate l)

theorem requestNonmaskable : BlindToRest requestNonmaskable :=
  (setPending 0 true).comp (ite (c := fun s => s.ie.getLsbD 0 = true) (activate 3) .id)

theorem resetController : BlindToRest resetController :=
  of_commutes fun _ _ => by simp only [resetController_eq]

/-! ### The arbiter -/

theorem clearPendingOf (l : Line) : BlindToRest (clearPendingOf l) :=
  ite (c := fun _ => l = 3) (setPending 0 false)
    (ite (c := fun s => isEffective s.desc l = true) (setPending (shadowBit l) false) .id)

/-- Delivery wakes the core from either rest mode (R146). -/
theorem deliver (l : Line) : BlindToRest (deliver l) :=
  have hwake : BlindToRest fun s => { s with runmode := .running } := fun s s' h => by
    obtain ⟨m, -, rfl⟩ := (alikeButForRest_iff s s').mp h
    exact ⟨rfl, Iff.rfl⟩
  (clearPendingOf l).comp ((deactivate l).comp ((emit _).comp hwake))

theorem diagnoseNested (l : Line) : BlindToRest (diagnoseNested l) :=
  ite (c := fun s => (isSoftware l && decide (1 < s.coreports.elevel.toNat)) = true) (emit _) .id

theorem acceptInterrupt : BlindToRest acceptInterrupt := by
  have hselected (o : Option Line) : BlindToRest fun s => match o with
      | none => s
      | some l => Machine.deliver l (Machine.diagnoseNested l s) := by
    cases o with
    | none => exact .id
    | some l => exact (diagnoseNested l).comp (deliver l)
  exact ite (c := fun s => s.cnt = 0) .id (samplePorts.comp (chosen hselected))

/-! ### The register writes, RD and RUNMODE -/

/-- What both shadow-register writes end with (R162, R164). -/
theorem nonmaskableLine {c : State → Prop} [DecidablePred c] (v : Bool)
    (hc : ∀ s m, c { s with runmode := m } = c s := by intros; rfl) :
    BlindToRest fun s => if v then if c s then raiseNonmaskable s else s else resetNonmaskable s :=
  ite (c := fun _ => v = true) (ite (activate 3) .id hc) (deactivate 3)

theorem writeIe (new : BitVec 24) : BlindToRest (writeIe new) :=
  chosen (read := fun s => new.setWidth 22 &&& ieValid s.desc) fun v =>
    (of_commutes (f := fun s => { s with ie := v }) fun _ _ => rfl).comp
      ((eachShadowBit fun k => setEnabled (lineOfBit k) (v.getLsbD k)).comp
        (nonmaskableLine (c := fun s => isPending s 0 = true) (v.getLsbD 0)))

theorem writeIrq (new : BitVec 24) : BlindToRest (writeIrq new) :=
  have hline (b : Bool) (l : Line) : BlindToRest (if b then Machine.tryRaise l else Machine.resetInt l) := by
    cases b with
    | true => exact tryRaise l
    | false => exact resetInt l
  chosen (read := fun s => new.setWidth 22 &&& irqValid s.desc) fun v =>
    (of_commutes (f := fun s => { s with irq := v }) fun _ _ => rfl).comp
      ((eachShadowBit fun k => hline (v.getLsbD k) (lineOfBit k)).comp
        (nonmaskableLine (c := fun s => s.ie.getLsbD 0 = true) (v.getLsbD 0)))

theorem busReadOut (addr : Addr) : BlindToRest (busReadOut addr) := by
  have hshown (o : Option Byte) : BlindToRest fun s => match o with
      | some v => Machine.emit (.readData addr v) s
      | none => Machine.emit (.busMiss addr) s := by
    cases o with
    | some v => exact emit _
    | none => exact emit _
  exact chosen (read := fun s => busRead s addr) hshown

/-- A stored mode is the same whichever rest mode it replaces (R245). -/
theorem setRunmode (mode : BitVec 2) : BlindToRest (setRunmode mode) := fun s s' h => by
  unfold Machine.setRunmode
  cases modeOf mode with
  | none => exact raiseFatal _ s s' h
  | some m =>
    obtain ⟨_, -, rfl⟩ := (alikeButForRest_iff s s').mp h
    exact ⟨rfl, Iff.rfl⟩

/-! ### Hooks, and the operations that emit them -/

section
variable (hr : BlindToRest r)
include hr

theorem hook (e : Event) : BlindToRest (hook r e) := (emit e).comp hr

theorem hookIfDue (e : Option Event) : BlindToRest (hookIfDue r e) := by
  cases e with
  | none => exact .id
  | some e => exact hook hr e

theorem eachHook (ev : Nat → Event) : BlindToRest (Machine.eachPeripheral fun n _ => Machine.hook r (ev n)) :=
  eachPeripheral fun n _ => hook hr (ev n)

theorem resetBlock : BlindToRest (resetBlock r) :=
  inOrder (by simpa using ⟨eachHook hr .resetPeriph, resetController⟩)

theorem breakBlock : BlindToRest (breakBlock r) :=
  samplePorts.comp (ite (c := fun s => 1 < s.coreports.elevel.toNat) (resetBlock hr) (activate 1))

theorem writeBlkcon (new : Byte) : BlindToRest (writeBlkcon r new) :=
  chosen (read := fun s => (s.blkcon, new &&& s.desc.blkValid)) fun v =>
    (of_commutes (f := fun s => { s with blkcon := v.2 }) fun _ _ => rfl).comp
      (eachPeripheral fun n p => hookIfDue hr (blockTransition v.1 v.2 n p))

theorem writeRegister (reg : Reg) (new : BitVec 24) : BlindToRest (writeRegister r reg new) := by
  cases reg with
  | osccfg => exact of_commutes fun _ _ => rfl
  | lsrst => exact of_commutes fun _ _ => rfl
  | hsrst => exact of_commutes fun _ _ => rfl
  | adj => exact of_commutes fun _ _ => rfl
  | ie => exact writeIe new
  | irq => exact writeIrq new
  | blkcon => exact writeBlkcon hr _

theorem busWrite (addr : Addr) (data : Byte) : BlindToRest (busWrite r addr data) := fun s s' h => by
  obtain ⟨m, -, rfl⟩ := (alikeButForRest_iff s s').mp h
  unfold Machine.busWrite
  dsimp only
  cases locate s.desc addr with
  | none => exact emit _ _ _ h
  | some rk => exact writeRegister hr rk.1 _ _ _ h

/-- Step 4 of CYCLE asks of the run mode only whether it is RUNNING (R235). -/
theorem stepCore : BlindToRest (stepCore r) := fun s s' h => by
  have hsys : s'.ticksys = s.ticksys := h.read_eq (read := State.ticksys) fun _ _ => rfl
  have ⟨_, hrun⟩ := h
  have hdue : (s.runmode = .running ∧ s.ticksys = true) ↔ (s'.runmode = .running ∧ s'.ticksys = true) := by
    rw [hrun, hsys]
  unfold Machine.stepCore
  simp only [← hdue]
  split
  · exact hook hr .step s s' h
  · exact h

theorem runCycle : BlindToRest (runCycle r) :=
  have hbegin : BlindToRest beginCycle := of_commutes fun _ _ => rfl
  have hclock : BlindToRest clockAdvance := of_commutes clockAdvance_withRunmode
  have hdispatch : BlindToRest (dispatchTicks r) :=
    eachPeripheral fun n p => chosen (read := fun s => dispatchEvent s n p) (hookIfDue hr)
  have harbitrate : BlindToRest arbitrate := ite (c := fun s => s.cnt = 0) .id acceptInterrupt
  have hclear : BlindToRest clearCycleFlags := of_commutes fun _ _ => rfl
  ite (c := fun s => s.incycle = true) (raiseFatal .illegalCommand) (inOrder (by
    simpa using ⟨hbegin, hclock, hdispatch, harbitrate, eachHook hr .tickAfterInterrupts, stepCore hr, hclear⟩))

/-- The walk over the commands. -/
theorem perform (i : Instr) : BlindToRest (perform r i) := by
  cases i with
  | cycle => exact runCycle hr
  | rst => exact resetBlock hr
  | brk => exact breakBlock hr
  | accept => exact acceptInterrupt
  | raiseRst => exact activate 0
  | raiseBrk => exact activate 1
  | raiseEmu => exact activate 2
  | raiseNmi => exact activate 3
  | raiseMi index => exact checked _ (activate index)
  | raiseSw index => exact checked _ (activate index)
  | clrNmi => exact deactivate 3
  | clrMi index => exact checked _ (deactivate index)
  | reqNmi => exact requestNonmaskable
  | lineEn index flag => exact checked _ (setEnabled index flag)
  | lineTry index => exact checked _ (tryRaise index)
  | lineClr index => exact checked _ (resetInt index)
  | wr addr data => exact busWrite hr addr data
  | rd addr => exact busReadOut addr
  | runmode mode => exact setRunmode mode
  | miblk flag => exact of_commutes fun _ _ => rfl

theorem runResponse (ws : Response) : BlindToRest (runResponse r ws) := by
  refine inOrder fun f hf => ?_
  obtain ⟨w, -, rfl⟩ := List.mem_map.mp hf
  unfold performWord
  cases decode w with
  | ok i => exact perform hr i
  | error _ => exact raiseFatal _

end

theorem respondWithin (n : Nat) : BlindToRest (respondWithin n) := by
  induction n with
  | zero => exact .id
  | succ n ih =>
    have htaken (rs : List Response) : BlindToRest fun s => match rs with
        | [] => s
        | ws :: rest => Machine.runResponse (Machine.respondWithin n) ws { s with responses := rest } := by
      cases rs with
      | nil => exact .id
      | cons ws rest =>
        exact (of_commutes (f := fun s => { s with responses := rest }) fun _ _ => rfl).comp (runResponse ih ws)
    exact chosen (read := State.responses) htaken

theorem respond : BlindToRest respond := chosen (read := fun s => s.responses.length) respondWithin

end BlindToRest

/-- Settles O54: each command is blind to the rest mode with a responder that is (`BlindToRest.perform`), and so is the
machine's own (`BlindToRest.respond`). -/
theorem stoppedAndHaltedAreAlike : Obligations.StoppedAndHaltedAreAlike := fun i s s' h =>
  ⟨_, _, exec_eq i s, exec_eq i s', (BlindToRest.perform BlindToRest.respond i).unlessFatal s s' h⟩

end Sys2Proof.Machine
end

section
/-! PROOF. The tick scheduler: CYCLE with any responses and with empty ones, step by step (R230 to R236), and the
commands that store a mode, a flag or a register and little else (R240, R245, R246). -/

namespace Sys2Proof.Machine

open Sys2Proof.Config

/-! ### Commands that store what they are given -/

/-- Settles O55: `modeOf` is the table of R245. -/
theorem runmodeStoresItsMode : Obligations.RunmodeStoresItsMode := fun _ hf =>
  ⟨exec_of_ready (.runmode 0) hf, exec_of_ready (.runmode 1) hf, exec_of_ready (.runmode 2) hf,
    exec_of_ready (.runmode 3) hf⟩

/-- Settles O56: MIBLK is one write. -/
theorem miblkStoresItsFlag : Obligations.MiblkStoresItsFlag := fun _ b hf => exec_of_ready (.miblk b) hf

/-- Settles O41: with empty responses the hooks only append their events (`writeBlkcon_quiet`). -/
theorem blockControlWriteEmitsHooks : Obligations.BlockControlWriteEmitsHooks := fun s _ data hf hr hd ha => by
  rw [exec_wr_blkcon data hf hd ha, writeBlkcon_quiet data hf hr]

/-! ### The steps of a cycle -/

/-- Settles O50: `INCYCLE` is looked at before anything is written. -/
theorem nestedCycleIsFatal : Obligations.NestedCycleIsFatal := fun _ hf hc =>
  (exec_of_ready .cycle hf).trans (congrArg _ (runCycle_of_incycle respond hc))

theorem unlessFatal_eq_ite (f : State → State) (s : State) :
    unlessFatal f s = if s.fatal = none then f s else s := by
  by_cases h : s.fatal = none
  · rw [unlessFatal_of_none h, if_pos h]
  · rw [unlessFatal_of_faulted h, if_neg h]

theorem SameButClock.fatal_eq {s t : State} (h : SameButClock s t) : t.fatal = s.fatal := by rw [h]

theorem acceptInterrupt_fatal (s : State) : (acceptInterrupt s).fatal = s.fatal := by rw [acceptInterrupt_frame]

theorem acceptInterrupt_ticksys (s : State) : (acceptInterrupt s).ticksys = s.ticksys := by rw [acceptInterrupt_frame]

/-- Step 3 begins with ACCEPT, which looks at `CNT` itself (R152, R234). -/
theorem arbitrate_eq (s : State) : arbitrate s = acceptInterrupt s := by
  unfold arbitrate
  split
  · next hc => exact (acceptInterrupt_of_cnt_zero hc).symm
  · rfl

/-- The two ways the table of R233 is written agree. -/
theorem dispatchEvent_eq (s : State) (n : Nat) (p : Peripheral) : dispatchEvent s n p = tableEvent s n p := by
  unfold dispatchEvent tableEvent
  cases periphEnabled s p with
  | false => rfl
  | true =>
    cases p.domain with
    | none | stopped => rfl
    | ls => cases s.rstls <;> cases s.tickls <;> rfl
    | hs => cases s.rsths <;> cases s.tickhs <;> rfl
    | sys => cases s.ticksys <;> rfl

/-- CYCLE from the clock advance on, by the states after the dispatch of step 2 and after `TickAfterInterrupts`: a
fatal error in the responses of either ends it there (R230, R260). -/
theorem runCycle_of_steps {r : Responder} {s c d e : State} (hf : s.fatal = none) (hi : s.incycle = false)
    (hc : clockAdvance (beginCycle s) = c) (hd : dispatchTicks r c = d) (he : tickAfterAll r (acceptInterrupt d) = e) :
    (d.fatal ≠ none → runCycle r s = d)
      ∧ (d.fatal = none → e.fatal ≠ none → runCycle r s = e)
      ∧ (d.fatal = none → e.fatal = none → runCycle r s = unlessFatal clearCycleFlags (stepCore r e)) := by
  have hclock : c.fatal = none := hc ▸ (sameButClock_clockAdvance _).fatal_eq.trans hf
  rw [runCycle_of_idle r hf hi, hc, inOrder_cons, unlessFatal_of_none hclock, hd]
  refine ⟨inOrder_of_faulted _, fun hdn hen => ?_, fun hdn hen => ?_⟩ <;>
    rw [inOrder_cons, unlessFatal_of_none hdn, arbitrate_eq, inOrder_cons,
      unlessFatal_of_none ((acceptInterrupt_fatal d).trans hdn), he]
  · exact inOrder_of_faulted _ hen
  · rw [inOrder_cons, unlessFatal_of_none hen]; rfl

/-- A cycle that no fatal error ended ends with its step 5, whatever the responses did (R236). -/
theorem runCycle_of_completed {r : Responder} {s : State} (hf : s.fatal = none) (hc : s.incycle = false)
    (h : (runCycle r s).fatal = none) : ∃ u, runCycle r s = clearCycleFlags u := by
  have hlast : runCycle r s = unlessFatal clearCycleFlags
      (inOrder [dispatchTicks r, arbitrate, tickAfterAll r, stepCore r] (clockAdvance (beginCycle s))) :=
    (runCycle_of_idle r hf hc).trans (inOrder_concat [_, _, _, _] clearCycleFlags _)
  rw [hlast] at h ⊢
  generalize inOrder _ _ = u at h ⊢
  by_cases hu : u.fatal = none
  · exact ⟨u, unlessFatal_of_none hu⟩
  · rw [unlessFatal_of_faulted hu] at h
    exact absurd h hu

/-- Settles O52: step 5 is the last write of a cycle that completed (`runCycle_of_completed`). -/
theorem cycleClearsItsFlags : Obligations.CycleClearsItsFlags := by
  intro s hf hc
  refine ⟨runCycle respond s, exec_of_ready .cycle hf, fun hdone => ?_⟩
  obtain ⟨u, hu⟩ := runCycle_of_completed hf hc hdone
  rw [hu]
  exact ⟨rfl, rfl, rfl, rfl, rfl, rfl, rfl, rfl⟩

/-! ### A cycle with any responses -/

/-- Step 2 with any responses (R233, R260). -/
theorem dispatchTicks_afterEvents {c : State} (hf : c.fatal = none) :
    (∀ k, k < c.desc.periphs.length → FirstFatalAt (dispatchOf c.desc) k c →
        dispatchTicks respond c = afterEvents (dispatchOf c.desc) (k + 1) c)
      ∧ (NoFatalThrough (dispatchOf c.desc) c.desc.periphs.length c →
        dispatchTicks respond c = afterEvents (dispatchOf c.desc) c.desc.periphs.length c) :=
  eachPeripheral_afterEvents hf fun n p hp t => by
    rw [dispatchEvent_eq, dispatchOf, hp, Option.bind_some]

/-- The second half of step 3 with any responses (R234, R260). -/
theorem tickAfterAll_afterEvents {a : State} (hf : a.fatal = none) :
    (∀ k, k < a.desc.periphs.length → FirstFatalAt afterInterruptsEvent k a →
        tickAfterAll respond a = afterEvents afterInterruptsEvent (k + 1) a)
      ∧ (NoFatalThrough afterInterruptsEvent a.desc.periphs.length a →
        tickAfterAll respond a = afterEvents afterInterruptsEvent a.desc.periphs.length a) :=
  eachPeripheral_afterEvents (due := fun n _ _ => some (.tickAfterInterrupts n)) hf fun _ _ _ _ => rfl

/-- Settles O59: each loop of hooks ends after its last peripheral or at the first fatal error
(`eachPeripheral_afterEvents`), and `runCycle_of_steps` says what follows either end. -/
theorem cycleTakesItsResponses : Obligations.CycleTakesItsResponses := by
  intro s c hf hc hcdef
  have hclock : SameButClock { s with incycle := true } c := hcdef ▸ sameButClock_clockAdvance _
  have hbegin : clockAdvance (beginCycle s) = c := hcdef.symm
  have hfc : c.fatal = none := hclock.fatal_eq.trans hf
  have hdc : c.desc = s.desc := hclock.inputs.1
  obtain ⟨hfirst, hall⟩ := dispatchTicks_afterEvents hfc
  rw [hdc] at hfirst hall
  rw [exec_of_ready .cycle hf]
  refine ⟨hclock, fun k hk h => ?_, fun h => ?_⟩
  · obtain ⟨hstop, -, -⟩ := runCycle_of_steps hf hc hbegin (hfirst k hk h) rfl
    exact congrArg _ (hstop h.2)
  have hd := hall h
  generalize hddef : afterEvents (dispatchOf s.desc) s.desc.periphs.length c = d at hd ⊢
  have hfd : d.fatal = none := hddef ▸ h _ (Nat.le_refl _)
  have hfa : (acceptInterrupt d).fatal = none := (acceptInterrupt_fatal d).trans hfd
  have hda : (acceptInterrupt d).desc = s.desc := by
    rw [(keepsInputs_acceptInterrupt d).1, ← hddef, afterEvents_desc, hdc]
  obtain ⟨hfirst', hall'⟩ := tickAfterAll_afterEvents hfa
  rw [hda] at hfirst' hall'
  refine ⟨acceptInterrupt d, exec_of_ready .accept hfd, fun k hk h' => ?_, fun h' e u he hu => ?_⟩
  · obtain ⟨-, hstop, -⟩ := runCycle_of_steps hf hc hbegin hd (hfirst' k hk h')
    exact congrArg _ (hstop hfd h'.2)
  · have hfe : e.fatal = none := he ▸ h' _ (Nat.le_refl _)
    obtain ⟨-, -, hrest⟩ := runCycle_of_steps hf hc hbegin hd ((hall' h').trans he.symm)
    rw [perform, hrest hfd hfe, show stepCore respond e = u from hu.symm, unlessFatal_eq_ite]
    rfl

/-! ### A cycle with empty responses -/

/-- Step 2 with empty responses (R233). -/
theorem dispatchTicks_quiet {c : State} (hf : c.fatal = none) (hr : c.responses = []) :
    dispatchTicks respond c = { c with events := c.events ++ dispatched c } := by
  have hloop : dispatchTicks respond c
      = eachFrom (fun n p s => hookIfDue respond (tableEvent s n p) s) 0 c.desc.periphs c := by
    simp only [dispatchTicks, eachPeripheral, dispatchEvent_eq]
  rw [hloop]
  exact eachFrom_hook_quiet (fun n p s => tableEvent s n p) (fun _ _ _ _ => rfl) 0 c.desc.periphs hf hr

/-- Step 4 with empty responses (R235). -/
theorem stepCore_quiet {s : State} (hr : s.responses = []) :
    stepCore respond s
      = { s with events := s.events ++ if s.runmode = .running ∧ s.ticksys = true then [.step] else [] } := by
  unfold stepCore
  split
  · exact hook_quiet hr
  · rw [List.append_nil]

/-- Settles O51: with empty responses no loop is ended, and each appends its events. -/
theorem cycleRunsItsFiveSteps : Obligations.CycleRunsItsFiveSteps := by
  intro s c hf hc hr hcdef
  have hclock : SameButClock { s with incycle := true } c := hcdef ▸ sameButClock_clockAdvance _
  have hfc : c.fatal = none := hclock.fatal_eq.trans hf
  obtain ⟨hdc, hrs⟩ := hclock.inputs
  have hrc : c.responses = [] := hrs.trans hr
  have hd : dispatchTicks respond c = { c with events := s.events ++ dispatched c } := by
    rw [dispatchTicks_quiet hfc hrc, show c.events = s.events by rw [hclock]]
  generalize hddef : { c with events := s.events ++ dispatched c } = d at hd ⊢
  have hfd : d.fatal = none := hddef ▸ hfc
  have hfa : (acceptInterrupt d).fatal = none := (acceptInterrupt_fatal d).trans hfd
  obtain ⟨hdesc, hresp⟩ := keepsInputs_acceptInterrupt d
  have hra : (acceptInterrupt d).responses = [] := by rw [hresp, ← hddef]; exact hrc
  have hda : (acceptInterrupt d).desc = s.desc := by rw [hdesc, ← hddef]; exact hdc
  have hsys : (acceptInterrupt d).ticksys = c.ticksys := by rw [acceptInterrupt_ticksys, ← hddef]
  have he := eachPeripheral_hook_quiet .tickAfterInterrupts hfa hra
  obtain ⟨-, -, hrest⟩ := runCycle_of_steps hf hc hcdef.symm hd he
  refine ⟨hclock, acceptInterrupt d, exec_of_ready .accept hfd, ?_⟩
  rw [exec_of_ready .cycle hf, perform, hrest hfd hfa, stepCore_quiet (by exact hra),
    unlessFatal_of_none (by exact hfa), hda, ← hsys]
  rfl

end Sys2Proof.Machine
end

section
/-! PROOF. The code 2 of R261 is construction's own: no command raises it, with whatever responses, so after power-on
it says that the check of the declared block bits failed (R242, R300). -/

namespace Sys2Proof.Machine

open Sys2Proof.Config

/-- No `Fatal(2)` stands. -/
def NoBadBlockBit (s : State) : Prop := s.fatal ≠ some .badBlockBit

/-- An operation that raises no fatal error, whatever its state. -/
def RaisesNothing (f : State → State) : Prop := ∀ s, (f s).fatal = s.fatal

variable {f : State → State} {r : Responder}

theorem RaisesNothing.keeps (h : RaisesNothing f) : Keeps NoBadBlockBit f := fun s hs => by
  unfold NoBadBlockBit
  rwa [h s]

theorem raisesNothing_activate (l : Line) : RaisesNothing (activate l) := fun s => activate_fatal s l

theorem raisesNothing_deactivate (l : Line) : RaisesNothing (deactivate l) := fun s => deactivate_fatal s l

theorem SameButLines.fatal_eq {s t : State} (h : SameButLines s t) : t.fatal = s.fatal := by rw [h]

theorem raisesNothing_requestNonmaskable : RaisesNothing requestNonmaskable := fun s => by
  rcases requestNonmaskable_cases s with ⟨-, h⟩ | ⟨-, h⟩ <;> rw [h]
  · exact activate_fatal _ 3
  · rfl

theorem raisesNothing_resetController : RaisesNothing resetController := fun s => by rw [resetController_eq]

theorem raisesNothing_busReadOut (addr : Addr) : RaisesNothing (busReadOut addr) := fun s => by
  unfold busReadOut
  split <;> rfl

namespace NoBadBlockBit

theorem raiseFatal {c : FatalCode} (hc : c ≠ .badBlockBit) : Keeps NoBadBlockBit (raiseFatal c) := fun _ _ h =>
  hc (Option.some.inj h)

theorem checked {ok : State → Bool} {c : FatalCode} (hc : c ≠ .badBlockBit) (hf : RaisesNothing f) :
    Keeps NoBadBlockBit fun s => checked (ok s) c f s := fun s hs => by
  dsimp only
  cases ok s with
  | true => exact hf.keeps s hs
  | false => exact raiseFatal hc s hs

theorem setRunmode (mode : BitVec 2) : Keeps NoBadBlockBit (setRunmode mode) := fun s hs => by
  unfold Machine.setRunmode
  split
  · exact hs
  · exact raiseFatal (by decide) s hs

section
variable (hr : Keeps NoBadBlockBit r)
include hr

theorem hook (e : Event) : Keeps NoBadBlockBit (hook r e) := fun s hs => hr (emit e s) hs

theorem hookIfDue (e : Option Event) : Keeps NoBadBlockBit (hookIfDue r e) := by
  cases e with
  | none => exact fun _ hs => hs
  | some e => exact hook hr e

theorem eachHook (ev : Nat → Event) : Keeps NoBadBlockBit (eachPeripheral fun n _ => Machine.hook r (ev n)) :=
  keeps_eachPeripheral fun n _ => hook hr (ev n)

theorem resetBlock : Keeps NoBadBlockBit (resetBlock r) := fun _ hs =>
  inOrder_keeps (by simpa using
    ⟨fun t _ => eachHook hr .resetPeriph t, fun t _ => raisesNothing_resetController.keeps t⟩) hs

theorem breakBlock : Keeps NoBadBlockBit (breakBlock r) := fun s hs => by
  have hsample : NoBadBlockBit (samplePorts s) := by rw [samplePorts_eq]; exact hs
  unfold Machine.breakBlock
  dsimp only
  split
  · exact resetBlock hr _ hsample
  · exact (raisesNothing_activate 1).keeps _ hsample

theorem writeRegister (reg : Reg) (new : BitVec 24) : Keeps NoBadBlockBit (writeRegister r reg new) := by
  cases reg with
  | osccfg | lsrst | hsrst | adj => exact fun _ hs => hs
  | ie => exact RaisesNothing.keeps (f := writeIe new) fun s => (sameButLines_writeIe new s).fatal_eq
  | irq => exact RaisesNothing.keeps (f := writeIrq new) fun s => (sameButLines_writeIrq new s).fatal_eq
  | blkcon => exact fun _ hs => keeps_eachPeripheral (fun _ _ => hookIfDue hr _) _ hs

theorem busWrite (addr : Addr) (data : Byte) : Keeps NoBadBlockBit (busWrite r addr data) := fun s hs => by
  unfold Machine.busWrite
  split
  · exact writeRegister hr _ _ s hs
  · exact hs

theorem runCycle : Keeps NoBadBlockBit (runCycle r) := fun s hs => by
  have hclock : Keeps NoBadBlockBit clockAdvance := RaisesNothing.keeps fun s => (sameButClock_clockAdvance s).fatal_eq
  have hdispatch : Keeps NoBadBlockBit (dispatchTicks r) := keeps_eachPeripheral fun _ _ t => hookIfDue hr _ t
  have harbitrate : RaisesNothing arbitrate := fun t => by rw [arbitrate_eq, acceptInterrupt_fatal]
  have hstep : Keeps NoBadBlockBit (stepCore r) := fun t ht => by
    unfold stepCore
    split
    · exact hook hr .step t ht
    · exact ht
  unfold Machine.runCycle
  split
  · exact raiseFatal (by decide) s hs
  · exact inOrder_keeps (by
      simpa using ⟨fun _ _ ht => ht, fun t _ => hclock t, fun t _ => hdispatch t, fun t _ => harbitrate.keeps t,
        fun t _ => eachHook hr .tickAfterInterrupts t, fun t _ => hstep t, fun _ _ ht => ht⟩) hs

/-- The walk over the commands: their codes are 1, 3, 4 and 5. -/
theorem perform (i : Instr) : Keeps NoBadBlockBit (perform r i) := by
  cases i with
  | cycle => exact runCycle hr
  | rst => exact resetBlock hr
  | brk => exact breakBlock hr
  | accept => exact RaisesNothing.keeps acceptInterrupt_fatal
  | raiseRst => exact (raisesNothing_activate 0).keeps
  | raiseBrk => exact (raisesNothing_activate 1).keeps
  | raiseEmu => exact (raisesNothing_activate 2).keeps
  | raiseNmi => exact (raisesNothing_activate 3).keeps
  | raiseMi index => exact checked (by decide) (raisesNothing_activate index)
  | raiseSw index => exact checked (by decide) (raisesNothing_activate index)
  | clrNmi => exact (raisesNothing_deactivate 3).keeps
  | clrMi index => exact checked (by decide) (raisesNothing_deactivate index)
  | reqNmi => exact raisesNothing_requestNonmaskable.keeps
  | lineEn index flag => exact checked (f := setEnabled index flag) (by decide) fun _ => rfl
  | lineTry index => exact checked (by decide) fun s => (sameButLines_tryRaise index s).fatal_eq
  | lineClr index => exact checked (by decide) fun s => (sameButLines_resetInt index s).fatal_eq
  | wr addr data => exact busWrite hr addr data
  | rd addr => exact (raisesNothing_busReadOut addr).keeps
  | runmode mode => exact setRunmode mode
  | miblk flag => exact fun _ hs => hs

end

theorem respond : Keeps NoBadBlockBit respond := fun _ hs =>
  respondWithin_keeps (fun _ _ _ _ h => h) (raiseFatal (by decide)) (fun _ hr i s _ => perform hr i s) _ hs

end NoBadBlockBit

/-- What construction does once the block bits are good raises no `Fatal(2)`, whatever the responses do (R300). -/
theorem noBadBlockBit_powerOn {d : Descriptor} {env : Environment} {t : State} (hd : legalDescriptor d = true)
    (hb : blockBitsOk d = true) (h : powerOn d env = .next t) : NoBadBlockBit t := by
  rw [powerOn_of_legal env hd hb] at h
  cases h
  have hblank : NoBadBlockBit (underConstruction d env) := nofun
  have hhooks := NoBadBlockBit.eachHook NoBadBlockBit.respond .initialise _ hblank
  exact Keeps.unlessFatal (fun u _ => NoBadBlockBit.resetBlock NoBadBlockBit.respond u) _ hhooks

/-- Settles O14: a bad block bit ends construction with `Fatal(2)`, and nothing that follows good ones raises it. -/
theorem badBlockBitFailsConstruction : Obligations.BadBlockBitFailsConstruction := by
  intro d env hd
  have hbad : blockBitsOk d = false
      ↔ ∃ p ∈ d.periphs, ∃ b, p.blkbit = some b ∧ ¬ (b ≤ 7 ∧ d.blkValid.getLsbD b = true) := by
    rw [← Bool.not_eq_true, blockBitsOk_iff]
    push Not
    rfl
  rw [← hbad]
  cases hb : blockBitsOk d with
  | true =>
    have hnext := powerOn_of_legal env hd hb
    exact ⟨_, hnext, iff_of_false (noBadBlockBit_powerOn hd hb hnext) (by decide)⟩
  | false => exact ⟨_, by rw [powerOn, if_pos hd, hb]; rfl, iff_of_true rfl rfl⟩

end Sys2Proof.Machine
end

section
/-! PROOF. The table of R261: with empty responses a command ends with the code of the one condition its operand or
nesting meets. An operation without an operand check raises nothing of its own when its hooks' responses do not, and
the checks are the rows of the table. -/

namespace Sys2Proof.Machine

open Sys2Proof.Config

variable {f : State → State} {r : Responder}

/-! ### Operations that raise nothing, with a responder that raises nothing -/

/-- An operation raises nothing iff it keeps whatever value FATAL has, so the loops that keep predicates serve it. -/
theorem raisesNothing_iff_keeps : RaisesNothing f ↔ ∀ c, Keeps (fun s => s.fatal = c) f :=
  ⟨fun h _ s hs => (h s).trans hs, fun h s => h s.fatal s rfl⟩

namespace RaisesNothing

theorem inOrder {fs : List (State → State)} (h : ∀ f ∈ fs, RaisesNothing f) : RaisesNothing (inOrder fs) :=
  fun s => inOrder_keeps (P := fun t => t.fatal = s.fatal) (fun f hf t _ ht => (h f hf t).trans ht) rfl

theorem eachPeripheral {f : Nat → Peripheral → State → State} (h : ∀ n p, RaisesNothing (f n p)) :
    RaisesNothing (eachPeripheral f) :=
  raisesNothing_iff_keeps.mpr fun c => keeps_eachPeripheral fun n p => raisesNothing_iff_keeps.mp (h n p) c

theorem samplePorts : RaisesNothing samplePorts := samplePorts_fatal

section
variable (hr : RaisesNothing r)
include hr

theorem hook (e : Event) : RaisesNothing (hook r e) := fun s => hr (emit e s)

theorem hookIfDue (e : Option Event) : RaisesNothing (hookIfDue r e) := by
  cases e with
  | none => exact fun _ => rfl
  | some e => exact hook hr e

theorem resetBlock : RaisesNothing (resetBlock r) :=
  inOrder (by simpa using ⟨eachPeripheral fun n _ => hook hr (.resetPeriph n), raisesNothing_resetController⟩)

theorem breakBlock : RaisesNothing (breakBlock r) := fun s => by
  unfold Machine.breakBlock
  dsimp only
  split
  · exact (resetBlock hr _).trans (samplePorts s)
  · exact (raisesNothing_activate 1 _).trans (samplePorts s)

theorem writeRegister (reg : Reg) (new : BitVec 24) : RaisesNothing (writeRegister r reg new) := by
  cases reg with
  | osccfg | lsrst | hsrst | adj => exact fun _ => rfl
  | ie => exact fun s => (sameButLines_writeIe new s).fatal_eq
  | irq => exact fun s => (sameButLines_writeIrq new s).fatal_eq
  | blkcon => exact fun _ => eachPeripheral (fun _ _ => hookIfDue hr _) _

theorem busWrite (addr : Addr) (data : Byte) : RaisesNothing (busWrite r addr data) := fun s => by
  unfold Machine.busWrite
  split
  · exact writeRegister hr _ _ s
  · rfl

end

end RaisesNothing

/-! ### Operand checks: the code of a failed check, and the old FATAL after a passed one -/

/-- A checked operation, by the condition under which its check fails. -/
theorem checked_fatal {bad : Prop} [Decidable bad] {ok : Bool} (hok : ok = true ↔ ¬ bad) (c : FatalCode)
    (hf : RaisesNothing f) (s : State) :
    (checked ok c f s).fatal = (if bad then some c else none).or s.fatal := by
  by_cases hb : bad
  · rw [checked_of_false (Bool.eq_false_iff.mpr fun h => hok.mp h hb), if_pos hb, Option.some_or]
  · rw [checked_of_true (hok.mpr hb), if_neg hb, Option.none_or, hf s]

theorem isMaskable_iff_not_outside (l : Line) : isMaskable l = true ↔ ¬ (l.toNat < 4 ∨ 63 < l.toNat) := by
  rw [isMaskable_iff]; omega

theorem isSoftware_iff_not_below (l : Line) : isSoftware l = true ↔ ¬ l.toNat < 64 :=
  decide_eq_true_iff.trans Nat.not_lt.symm

theorem isEffective_iff_not_outside (d : Descriptor) (l : Line) :
    isEffective d l = true ↔ ¬ (l.toNat < 4 ∨ 3 + lineCount d < l.toNat) := by
  rw [isEffective_iff]; omega

theorem modeOf_eq_none_iff : ∀ mode : BitVec 2, modeOf mode = none ↔ mode = 3 := by decide

theorem violation_runmode (s : State) (mode : BitVec 2) :
    violation s (.runmode mode) = if mode = 3 then some .illegalCommand else none := rfl

theorem violation_cycle (s : State) : violation s .cycle = if s.incycle then some .illegalCommand else none := rfl

theorem setRunmode_fatal (mode : BitVec 2) (s : State) :
    (setRunmode mode s).fatal = (violation s (.runmode mode)).or s.fatal := by
  rw [violation_runmode, setRunmode]
  cases hm : modeOf mode with
  | none => rw [if_pos ((modeOf_eq_none_iff mode).mp hm)]; rfl
  | some m =>
    have hne : mode ≠ 3 := fun h => by simp [(modeOf_eq_none_iff mode).mpr h] at hm
    rw [if_neg hne, Option.none_or]

/-- The five steps of a cycle check nothing: only its nesting is an error (R231). -/
theorem runCycle_fatal (hr : RaisesNothing r) (s : State) :
    (runCycle r s).fatal = (violation s .cycle).or s.fatal := by
  have hclock : RaisesNothing clockAdvance := fun s => (sameButClock_clockAdvance s).fatal_eq
  have hdispatch : RaisesNothing (dispatchTicks r) := .eachPeripheral fun _ _ s => RaisesNothing.hookIfDue hr _ s
  have harbitrate : RaisesNothing arbitrate := fun s => by rw [arbitrate_eq, acceptInterrupt_fatal]
  have hafter : RaisesNothing (tickAfterAll r) := .eachPeripheral fun n _ => .hook hr (.tickAfterInterrupts n)
  have hstep : RaisesNothing (stepCore r) := fun s => by
    unfold stepCore
    split
    · exact RaisesNothing.hook hr .step s
    · rfl
  rw [violation_cycle, runCycle]
  split
  · rfl
  · rw [Option.none_or]
    exact RaisesNothing.inOrder
      (by simpa using ⟨fun _ => rfl, hclock, hdispatch, harbitrate, hafter, hstep, fun _ => rfl⟩) s

/-- The walk over the commands: FATAL becomes the code of the violation, and without one it stays (R261). -/
theorem perform_fatal (hr : RaisesNothing r) (i : Instr) (s : State) :
    (perform r i s).fatal = (violation s i).or s.fatal := by
  cases i with
  | cycle => exact runCycle_fatal hr s
  | rst => exact RaisesNothing.resetBlock hr s
  | brk => exact RaisesNothing.breakBlock hr s
  | accept => exact acceptInterrupt_fatal s
  | raiseRst => exact raisesNothing_activate 0 s
  | raiseBrk => exact raisesNothing_activate 1 s
  | raiseEmu => exact raisesNothing_activate 2 s
  | raiseNmi => exact raisesNothing_activate 3 s
  | raiseMi index => exact checked_fatal (isMaskable_iff_not_outside index) _ (raisesNothing_activate index) s
  | raiseSw index => exact checked_fatal (isSoftware_iff_not_below index) _ (raisesNothing_activate index) s
  | clrNmi => exact raisesNothing_deactivate 3 s
  | clrMi index => exact checked_fatal (isMaskable_iff_not_outside index) _ (raisesNothing_deactivate index) s
  | reqNmi => exact raisesNothing_requestNonmaskable s
  | lineEn index flag =>
    have hset : RaisesNothing (setEnabled index flag) := fun _ => rfl
    exact checked_fatal (isEffective_iff_not_outside s.desc index) _ hset s
  | lineTry index =>
    have htry : RaisesNothing (tryRaise index) := fun t => (sameButLines_tryRaise index t).fatal_eq
    exact checked_fatal (isEffective_iff_not_outside s.desc index) _ htry s
  | lineClr index =>
    have hclear : RaisesNothing (resetInt index) := fun t => (sameButLines_resetInt index t).fatal_eq
    exact checked_fatal (isEffective_iff_not_outside s.desc index) _ hclear s
  | wr addr data => exact RaisesNothing.busWrite hr addr data s
  | rd addr => exact raisesNothing_busReadOut addr s
  | runmode mode => exact setRunmode_fatal mode s
  | miblk flag => rfl

/-! ### The machine's own responder, with empty responses -/

/-- With no response listed a command does what it does when nobody answers its hooks. -/
theorem perform_quiet (i : Instr) {s : State} (h : s.responses = []) : perform respond i s = perform id i s :=
  have hquiet : AgreeOn (fun _ rs => rs = []) respond id := fun _ ht => by rw [respond_quiet ht]; exact ⟨rfl, ht⟩
  (agreeOn_perform hquiet i s h).1

/-- Outside a cycle the conditions of R261 are the operand checks of a well-formed command. -/
theorem violation_eq_none_iff {s : State} (hc : s.incycle = false) (i : Instr) :
    violation s i = none ↔ i.wellFormed s.desc = true := by
  cases i with
  | cycle => simp [violation, hc, Instr.wellFormed]
  | raiseMi _ | clrMi _ | raiseSw _ | lineEn _ _ | lineTry _ | lineClr _ | runmode _ =>
    simp [violation, Instr.wellFormed]
  | rst | brk | accept | raiseRst | raiseBrk | raiseEmu | raiseNmi | clrNmi | reqNmi | wr _ _ | rd _ | miblk _ =>
    exact iff_of_true rfl rfl

/-- Settles O8: with empty responses the hooks are answered by nobody, and `perform_fatal` gives the code. -/
theorem fatalCodeIsTheViolation : Obligations.FatalCodeIsTheViolation := by
  intro i s hf hr
  have hcode : (perform respond i s).fatal = violation s i := by
    rw [perform_quiet i hr, perform_fatal (r := id) (fun _ => rfl), hf, Option.or_none]
  refine ⟨perform respond i s, exec_of_ready i hf, hcode, fun hc => ?_⟩
  rw [hcode]
  exact violation_eq_none_iff hc i

end Sys2Proof.Machine
end

section
/-! PROOF. Construction with empty responses (R300, R45), and a cycle in which the core rests and nothing wakes it
(R239, R318). -/

namespace Sys2Proof.Machine

open Sys2Proof.Config

/-! ### Power-on -/

/-- With empty responses construction is the power-on column in its environment, and the hooks' events (R45, R300). -/
theorem powerOn_quiet {d : Descriptor} {env : Environment} (hd : legalDescriptor d = true) (hb : blockBitsOk d = true)
    (hr : env.responses = []) :
    powerOn d env = .next { poweredOn d with
      coreports := env.coreports, portsamples := env.portsamples,
      events := (List.range d.periphs.length).map .initialise
        ++ (List.range d.periphs.length).map .resetPeriph } := by
  have hinit := eachPeripheral_hook_quiet .initialise (s := underConstruction d env) rfl hr
  rw [powerOn_of_legal env hd hb, hinit, unlessFatal_of_none (by rfl), resetBlock_of_ready respond (by rfl),
    eachPeripheral_hook_quiet .resetPeriph (by rfl) (by exact hr), unlessFatal_of_none (by rfl), resetController_eq,
    underConstruction, hr]
  rfl

/-- Settles O13: the state is the power-on column (`powerOn_quiet`), whose `LSLEN` holds `LS_NOM` since the descriptor
is legal. -/
theorem powerOnReachesItsColumn : Obligations.PowerOnReachesItsColumn := by
  intro d env hd hr hbits
  refine ⟨_, powerOn_quiet hd ((blockBitsOk_iff d).mpr hbits) hr, isActive_of_act_eq_one rfl, ?_⟩
  have hlslen := toNat_nominalInterval hd
  exact ⟨rfl, rfl, rfl, rfl, rfl, rfl, rfl, rfl, rfl, rfl, rfl, rfl, rfl, rfl, rfl, rfl, rfl, rfl, rfl, rfl, rfl, rfl,
    hlslen, rfl, rfl, rfl, rfl, rfl, rfl, rfl, rfl, rfl⟩

/-! ### A cycle at rest -/

/-- The clocks do not see that a cycle is in progress (R200). -/
theorem clockAdvance_beginCycle (s : State) : clockAdvance (beginCycle s) = beginCycle (clockAdvance s) := by
  simp only [clockAdvance, advanceLowSpeed, advanceInterval_eq, advanceDrift_eq, advanceHighSpeed_eq,
    apply_ite beginCycle]
  rfl

/-- With no line deliverable ACCEPT samples the ports at most (R149, R152). -/
theorem acceptInterrupt_of_undeliverable {s : State} (h : ∀ l, ¬ Deliverable (sampled s) l) :
    acceptInterrupt s = { s with
      coreports := (acceptInterrupt s).coreports, portsamples := (acceptInterrupt s).portsamples } := by
  by_cases hc : s.cnt = 0
  · rw [acceptInterrupt_of_cnt_zero hc]
  · rw [acceptInterrupt_of_deferred hc (selectLine_of_none h)]; rfl

/-- What is deliverable depends on the bitmap, `MIBLK` and the ports alone, none of which the clocks write. -/
theorem SameButClock.deliverable_iff {s c : State} (h : SameButClock s c) (es : List Event) (l : Line) :
    Deliverable (sampled { c with events := es }) l ↔ Deliverable (sampled s) l := by
  rw [h]; rfl

/-- A cycle at rest with nothing deliverable is the clock cycle and the events of its peripherals; the ports may have
been sampled (R239). -/
theorem exec_cycle_at_rest {s : State} (hf : s.fatal = none) (hc : s.incycle = false) (hr : s.responses = [])
    (hrest : s.runmode ≠ .running) (hnone : ∀ l, ¬ Deliverable (sampled s) l) :
    ∃ t, exec .cycle s = .next t
      ∧ t = { clockCycle s with
          coreports := t.coreports, portsamples := t.portsamples,
          events := s.events ++ (dispatched (clockAdvance s)
            ++ (List.range s.desc.periphs.length).map .tickAfterInterrupts) } := by
  obtain ⟨hclock, a, haccept, hcycle⟩ := cycleRunsItsFiveSteps s _ hf hc hr rfl
  generalize hcdef : clockAdvance { s with incycle := true } = c at hclock haccept hcycle
  have hbegin : c = beginCycle (clockAdvance s) := hcdef.symm.trans (clockAdvance_beginCycle s)
  have hmode : c.runmode = s.runmode := by rw [hclock]
  have hfc : c.fatal = none := hclock.fatal_eq.trans hf
  rw [exec_of_ready .accept (by exact hfc)] at haccept
  injection haccept with ha
  have hundeliverable : ∀ l, ¬ Deliverable (sampled { c with events := s.events ++ dispatched c }) l :=
    fun l => mt (hclock.deliverable_iff _ l).mp (hnone l)
  have hasleep : a = { c with
      coreports := a.coreports, portsamples := a.portsamples, events := s.events ++ dispatched c } :=
    ha ▸ acceptInterrupt_of_undeliverable hundeliverable
  have hmodea : a.runmode ≠ .running := by rw [hasleep, hmode]; exact hrest
  refine ⟨_, hcycle, ?_⟩
  rw [if_neg fun h => hmodea h.1, List.append_nil, hasleep, hbegin, List.append_assoc]
  rfl

/-- Step 2 dispatches ticks and low-speed resets only (R233). -/
theorem eq_tick_or_resetLsclk_of_tableEvent {s : State} {n : Nat} {p : Peripheral} {e : Event}
    (h : tableEvent s n p = some e) : e = .tick n ∨ e = .resetLsclk n := by
  unfold tableEvent at h
  split at h
  · cases h
  · split at h <;> cases h <;> simp

theorem eq_tick_or_resetLsclk_of_mem_dispatched {s : State} {e : Event} (h : e ∈ dispatched s) :
    ∃ n, e = .tick n ∨ e = .resetLsclk n := by
  obtain ⟨⟨p, n⟩, -, he⟩ := List.mem_filterMap.mp h
  exact ⟨n, eq_tick_or_resetLsclk_of_tableEvent he⟩

/-- Settles O53: no event of a cycle at rest (`exec_cycle_at_rest`) is `Step` or `RaiseException`, and its clocks are
those of the clock cycle. -/
theorem sleepWithNothingDeliverable : Obligations.SleepWithNothingDeliverable := by
  intro s hf hc hr hrest hnone
  obtain ⟨t, hcycle, ht⟩ := exec_cycle_at_rest hf hc hr hrest hnone
  have hmode : (clockAdvance s).runmode = s.runmode := by rw [sameButClock_clockAdvance s]
  have hevent : ∀ e ∈ dispatched (clockAdvance s) ++ (List.range s.desc.periphs.length).map .tickAfterInterrupts,
      ∃ n, e = .tick n ∨ e = .resetLsclk n ∨ e = .tickAfterInterrupts n := by
    intro e he
    rcases List.mem_append.mp he with hd | ha
    · obtain ⟨n, h | h⟩ := eq_tick_or_resetLsclk_of_mem_dispatched hd
      · exact ⟨n, .inl h⟩
      · exact ⟨n, .inr (.inl h)⟩
    · obtain ⟨n, -, rfl⟩ := List.mem_map.mp ha
      exact ⟨n, .inr (.inr rfl)⟩
  refine ⟨t, hcycle, by rw [ht]; exact hmode, ?_⟩
  rw [ht]
  refine ⟨rfl, rfl, rfl, rfl, rfl, rfl, rfl, rfl, rfl, rfl, clockAdvance_withRunmode s, _, rfl, fun h => ?_,
    fun level l h => ?_⟩
  · obtain ⟨n, h | h | h⟩ := hevent _ h <;> cases h
  · obtain ⟨n, h | h | h⟩ := hevent _ h <;> cases h

end Sys2Proof.Machine
end
